-- ==== Sys2Proof/Word.lean ====
section
/-! DEFINITION. The word types of the MD5 Digest Engine core (00_scope.md R6, R8): every quantity is unsigned. -/
namespace Sys2Proof

/-- A 32-bit word: an accumulator, a working register, a message word (R6). -/
abbrev Word := BitVec 32

/-- A byte (R6). -/
abbrev Byte := BitVec 8

/-- A command or response word, 16 bits (R6, R63, R64). -/
abbrev PortWord := BitVec 16

end Sys2Proof
end

