-- ==== Sys2Proof/Config.lean ====
section
/-! DEFINITION. What an implementation fixes: the latency, and nothing else (00_scope.md R7). -/
namespace Sys2Proof

/-- The latency of a command, less one, for a command word and a fill level (R171, R172).
No body: nothing can be proved of its value (assumption log 7). -/
opaque Config.latencyPred (cmd : PortWord) (len : BitVec 6) : Nat

/-- `LAT` (R7, R171): how many clock cycles pass from the acceptance of a command to its response, a positive number.
No rule of the spec reads it and the model carries no time (R171), so nothing below uses it. -/
def Config.latency (cmd : PortWord) (len : BitVec 6) : Nat := Config.latencyPred cmd len + 1

end Sys2Proof
end

