-- ==== Sys2Proof/Syntax.lean ====
section
/-! DEFINITION. The instructions: the seven host commands (30_encoding.md R65) and the 64 entries of the step ROM
(42_block_transform.md R124), one constructor per row of spec/opcode_table.json. -/
namespace Sys2Proof

/-- One row of the opcode table each. A host command carries its operand byte `imm8` (R64, R66); an entry of the step ROM
has no operand of its own, its four fields stand in the ROM (R70). -/
inductive Instr where
  /-- NOP (R81). -/
  | nop
  /-- INIT (R82). -/
  | init
  /-- UPDATE b, the message byte `b = imm8` (R83). -/
  | update (b : Byte)
  /-- DIGEST (R85). -/
  | digest
  /-- RDHEX k with `imm8` the operand byte: `k = imm8[4:0]`, and `imm8[7:5] = 0` in a legal word (R66, R86). -/
  | rdhex (imm8 : Byte)
  /-- RDDIG k with `imm8` the operand byte: `k = imm8[3:0]`, and `imm8[7:4] = 0` in a legal word (R66, R87). -/
  | rddig (imm8 : Byte)
  /-- RDSTAT (R88). -/
  | rdstat
  -- The FF entries (R120).
  | step00FF | step01FF | step02FF | step03FF | step04FF | step05FF | step06FF | step07FF
  | step08FF | step09FF | step10FF | step11FF | step12FF | step13FF | step14FF | step15FF
  -- The GG entries (R121).
  | step16GG | step17GG | step18GG | step19GG | step20GG | step21GG | step22GG | step23GG
  | step24GG | step25GG | step26GG | step27GG | step28GG | step29GG | step30GG | step31GG
  -- The HH entries (R122).
  | step32HH | step33HH | step34HH | step35HH | step36HH | step37HH | step38HH | step39HH
  | step40HH | step41HH | step42HH | step43HH | step44HH | step45HH | step46HH | step47HH
  -- The II entries (R123).
  | step48II | step49II | step50II | step51II | step52II | step53II | step54II | step55II
  | step56II | step57II | step58II | step59II | step60II | step61II | step62II | step63II
deriving DecidableEq, Repr

/-- What an instruction is encoded in: a 16-bit command word of the host (R64), or a 6-bit index of the step ROM, which is
all that selects an entry (R70). -/
inductive Code where
  | command (w : PortWord)
  | rom (i : BitVec 6)
deriving DecidableEq, Repr

/-- Why a command word is illegal: the three classes of R67. -/
inductive Illegal where
  /-- R67 (a): `op` is 0x7 to 0xF. -/
  | reservedOpcode
  /-- R67 (b): `op` is 0x0 to 0x6 and `rsv` is not 0. -/
  | reservedBits
  /-- R67 (c): an operand bit is set that the command does not have. -/
  | operandBits
deriving DecidableEq, Repr

end Sys2Proof
end

