-- ==== Sys2Proof/WellFormed.lean ====
section
/-! DEFINITION. Which instructions are well formed: the operand bits a command must leave 0 (30_encoding.md R66). -/
namespace Sys2Proof

/-- An instruction some code stands for: RDHEX needs `imm8[7:5] = 0` and RDDIG `imm8[7:4] = 0` (R66); every other one is
well formed with any operand. -/
def Instr.wf : Instr → Bool
  | .nop | .init | .digest | .rdstat => true
  | .update _ => true
  | .rdhex imm8 => imm8.extractLsb' 5 3 == 0
  | .rddig imm8 => imm8.extractLsb' 4 4 == 0
  | .step00FF | .step01FF | .step02FF | .step03FF | .step04FF | .step05FF | .step06FF | .step07FF
  | .step08FF | .step09FF | .step10FF | .step11FF | .step12FF | .step13FF | .step14FF | .step15FF
  | .step16GG | .step17GG | .step18GG | .step19GG | .step20GG | .step21GG | .step22GG | .step23GG
  | .step24GG | .step25GG | .step26GG | .step27GG | .step28GG | .step29GG | .step30GG | .step31GG
  | .step32HH | .step33HH | .step34HH | .step35HH | .step36HH | .step37HH | .step38HH | .step39HH
  | .step40HH | .step41HH | .step42HH | .step43HH | .step44HH | .step45HH | .step46HH | .step47HH
  | .step48II | .step49II | .step50II | .step51II | .step52II | .step53II | .step54II | .step55II
  | .step56II | .step57II | .step58II | .step59II | .step60II | .step61II | .step62II | .step63II => true

end Sys2Proof
end

