-- ==== Sys2Proof/Decode.lean ====
section
/-! DEFINITION. The decoder, total on all 65536 command words and all 64 ROM indices, and the encoder
(30_encoding.md R64 to R70, 42_block_transform.md R124). -/
namespace Sys2Proof

/-- `cmd[15:12]` (R64). -/
def opField (w : PortWord) : BitVec 4 := w.extractLsb' 12 4

/-- `cmd[11:8]` (R64). -/
def rsvField (w : PortWord) : BitVec 4 := w.extractLsb' 8 4

/-- `cmd[7:0]` (R64). -/
def immField (w : PortWord) : Byte := w.extractLsb' 0 8

/-- A command without an operand requires `imm8 = 0` (R66). -/
def decodeBare (imm8 : Byte) (i : Instr) : Except Illegal Instr :=
  if imm8 = 0 then .ok i else .error .operandBits

/-- RDHEX requires `imm8[7:5] = 0` (R66). -/
def decodeRdhex (imm8 : Byte) : Except Illegal Instr :=
  if imm8.extractLsb' 5 3 = 0 then .ok (.rdhex imm8) else .error .operandBits

/-- RDDIG requires `imm8[7:4] = 0` (R66). -/
def decodeRddig (imm8 : Byte) : Except Illegal Instr :=
  if imm8.extractLsb' 4 4 = 0 then .ok (.rddig imm8) else .error .operandBits

/-- A command word: the opcode map of R65, and R67 for the words that match no pattern. -/
def decodeCommand (w : PortWord) : Except Illegal Instr :=
  if 7 ≤ (opField w).toNat then .error .reservedOpcode
  else if rsvField w ≠ 0 then .error .reservedBits
  else
    match (opField w).toNat with
    | 0 => decodeBare (immField w) .nop
    | 1 => decodeBare (immField w) .init
    | 2 => .ok (.update (immField w))
    | 3 => decodeBare (immField w) .digest
    | 4 => decodeRdhex (immField w)
    | 5 => decodeRddig (immField w)
    | 6 => decodeBare (immField w) .rdstat
    | _ => .error .reservedOpcode

/-- ROM entries 0 to 15 (R120, R124). -/
def romInstrsFF : List Instr :=
  [.step00FF, .step01FF, .step02FF, .step03FF, .step04FF, .step05FF, .step06FF, .step07FF,
   .step08FF, .step09FF, .step10FF, .step11FF, .step12FF, .step13FF, .step14FF, .step15FF]

/-- ROM entries 16 to 31 (R121, R124). -/
def romInstrsGG : List Instr :=
  [.step16GG, .step17GG, .step18GG, .step19GG, .step20GG, .step21GG, .step22GG, .step23GG,
   .step24GG, .step25GG, .step26GG, .step27GG, .step28GG, .step29GG, .step30GG, .step31GG]

/-- ROM entries 32 to 47 (R122, R124). -/
def romInstrsHH : List Instr :=
  [.step32HH, .step33HH, .step34HH, .step35HH, .step36HH, .step37HH, .step38HH, .step39HH,
   .step40HH, .step41HH, .step42HH, .step43HH, .step44HH, .step45HH, .step46HH, .step47HH]

/-- ROM entries 48 to 63 (R123, R124). -/
def romInstrsII : List Instr :=
  [.step48II, .step49II, .step50II, .step51II, .step52II, .step53II, .step54II, .step55II,
   .step56II, .step57II, .step58II, .step59II, .step60II, .step61II, .step62II, .step63II]

/-- The 64 entries of the step ROM in the order of their index (R124). -/
def romInstrs : List Instr := romInstrsFF ++ romInstrsGG ++ romInstrsHH ++ romInstrsII

/-- There is one entry for each value of the 6-bit index (R70). -/
theorem romInstrs_length : romInstrs.length = 64 := rfl

/-- The entry the sequencer reads at address `i` (R42, R70). -/
def decodeStep (i : BitVec 6) : Instr :=
  romInstrs[i.toNat]'(by rw [romInstrs_length]; exact i.isLt)

/-- The decoder, on either kind of code. -/
def decode : Code → Except Illegal Instr
  | .command w => decodeCommand w
  | .rom i => .ok (decodeStep i)

/-- A command word of opcode `op`, `rsv` 0 and operand byte `imm8` (R64). -/
def commandWord (op : BitVec 4) (imm8 : Byte) : PortWord := op ++ (0#4 ++ imm8)

/-- The code of an instruction (R65, R70, R124). -/
def encode : Instr → Code
  | .nop => .command (commandWord 0 0)
  | .init => .command (commandWord 1 0)
  | .update b => .command (commandWord 2 b)
  | .digest => .command (commandWord 3 0)
  | .rdhex imm8 => .command (commandWord 4 imm8)
  | .rddig imm8 => .command (commandWord 5 imm8)
  | .rdstat => .command (commandWord 6 0)
  | .step00FF => .rom 0
  | .step01FF => .rom 1
  | .step02FF => .rom 2
  | .step03FF => .rom 3
  | .step04FF => .rom 4
  | .step05FF => .rom 5
  | .step06FF => .rom 6
  | .step07FF => .rom 7
  | .step08FF => .rom 8
  | .step09FF => .rom 9
  | .step10FF => .rom 10
  | .step11FF => .rom 11
  | .step12FF => .rom 12
  | .step13FF => .rom 13
  | .step14FF => .rom 14
  | .step15FF => .rom 15
  | .step16GG => .rom 16
  | .step17GG => .rom 17
  | .step18GG => .rom 18
  | .step19GG => .rom 19
  | .step20GG => .rom 20
  | .step21GG => .rom 21
  | .step22GG => .rom 22
  | .step23GG => .rom 23
  | .step24GG => .rom 24
  | .step25GG => .rom 25
  | .step26GG => .rom 26
  | .step27GG => .rom 27
  | .step28GG => .rom 28
  | .step29GG => .rom 29
  | .step30GG => .rom 30
  | .step31GG => .rom 31
  | .step32HH => .rom 32
  | .step33HH => .rom 33
  | .step34HH => .rom 34
  | .step35HH => .rom 35
  | .step36HH => .rom 36
  | .step37HH => .rom 37
  | .step38HH => .rom 38
  | .step39HH => .rom 39
  | .step40HH => .rom 40
  | .step41HH => .rom 41
  | .step42HH => .rom 42
  | .step43HH => .rom 43
  | .step44HH => .rom 44
  | .step45HH => .rom 45
  | .step46HH => .rom 46
  | .step47HH => .rom 47
  | .step48II => .rom 48
  | .step49II => .rom 49
  | .step50II => .rom 50
  | .step51II => .rom 51
  | .step52II => .rom 52
  | .step53II => .rom 53
  | .step54II => .rom 54
  | .step55II => .rom 55
  | .step56II => .rom 56
  | .step57II => .rom 57
  | .step58II => .rom 58
  | .step59II => .rom 59
  | .step60II => .rom 60
  | .step61II => .rom 61
  | .step62II => .rom 62
  | .step63II => .rom 63

/-- The code that the opcode table's bits `w` stand for: a row of at most 8 bits is a row of the step ROM, whose word is the
6-bit index (R70), any other row is a command word (R64); a number too large for its format is no code (assumption log 11). -/
def tableCode (nbits w : Nat) : Option Code :=
  if nbits ≤ 8 then if w < 64 then some (.rom (BitVec.ofNat 6 w)) else none
  else if w < 65536 then some (.command (BitVec.ofNat 16 w)) else none

/-- The instruction the decoder reads from a row's bits, numbered as spec/opcode_table.json numbers them. -/
def decodeTableWord (nbits w : Nat) : Option Instr :=
  match tableCode nbits w with
  | some c =>
    match decode c with
    | .ok i => some i
    | .error _ => none
  | none => none

end Sys2Proof
end

