-- ==== Sys2Proof/Machine/State.lean ====
section
/-! DEFINITION. The state of the engine (10_state.md), its value after hard reset (R35, R161), and the reasons a step can
stop. -/
namespace Sys2Proof.Machine

/-- Four 32-bit registers: the accumulators `A, B, C, D` (R21) or the working registers `a, b, c, d` (R22). -/
structure Quad where
  a : Word
  b : Word
  c : Word
  d : Word
deriving DecidableEq, Repr

/-- Where the engine is (R23, R33 I3): between commands, or inside `Transform` with `pc` at a step of the ROM
(assumption log 5). -/
inductive Sequencer where
  | idle
  | running
deriving DecidableEq, Repr

/-- What the host can do to the engine (R174): present a command word, take the response, assert `rst`
(assumption log 1). -/
inductive HostAction where
  /-- `cmd_valid` with `cmd_data = w`, held until the engine accepts it (R61). -/
  | command (w : PortWord)
  /-- `rsp_ready`: take the response on the response channel (R62). -/
  | take
  /-- `rst` (R160). -/
  | reset
deriving DecidableEq, Repr

/-- The two error causes (R140). -/
inductive Cause where
  /-- UPDATE or DIGEST with FIN = 1, RDHEX or RDDIG with FIN = 0 (R141). -/
  | invalidState
  /-- A word that matches no pattern of R65 (R142). -/
  | illegalCommand
deriving DecidableEq, Repr

/-- Byte-addressed storage: address and byte pairs in one canonical form (`Memory.wf`). The only one is BUF (R40). -/
abbrev Memory := List Host.Cell

/-- A machine fault. There is none: the engine has no hang and no stuck state (R168) and its two errors are answered, not
trapped (R140, R143), so no one raises one and the type has no constructor. Safe (assumption log 9). -/
inductive Fault where
deriving DecidableEq, Repr

/-- A step with no meaning. -/
inductive Refusal where
  /-- Raised by `exec` alone, for an instruction that has no meaning yet; no arm raises it now. Safe: nothing is claimed of
  the instruction. -/
  | notModelled (mnemonic : String)
deriving DecidableEq, Repr

/-- The engine's state. -/
structure State where
  /-- `H[0..3]` (R21). -/
  h : Quad
  /-- `x[0..3]` (R22). -/
  x : Quad
  /-- `pc`, the step counter (R23). -/
  pc : BitVec 6
  /-- `CNT`, the bit counter (R24). -/
  cnt : BitVec 64
  /-- `BUF[0..63]` (R25). -/
  buf : Memory
  /-- `LEN`, the fill level (R26). -/
  len : BitVec 6
  /-- `FIN` (R27). -/
  fin : Bool
  /-- `ERR_IS` (R28). -/
  errIS : Bool
  /-- `ERR_IC` (R28). -/
  errIC : Bool
  /-- The response channel: `rsp_valid` with `rsp_data`, held until the host takes it (R60, R62). -/
  rsp : Option PortWord
  /-- The model's own: inside a `Transform` or not (assumption log 5). -/
  seq : Sequencer
  /-- The model's own: what the host does from here on, first action first (assumption log 1). -/
  host : List HostAction
  /-- The model's own: the responses the host has taken, oldest first, the observation of R173 (assumption log 2). -/
  taken : List PortWord
deriving DecidableEq, Repr

/-- The initial constants IV of the accumulators (R21). -/
def Quad.iv : Quad := ⟨0x67452301, 0xEFCDAB89, 0x98BADCFE, 0x10325476⟩

/-- The machine right after hard reset (R35, R161). `x` and the cells of BUF have no reset value in the spec: the model's are
0 (assumption logs 3 and 4). No command is in flight, and the host has done nothing yet. -/
def State.reset : State where
  h := Quad.iv
  x := ⟨0, 0, 0, 0⟩
  pc := 0
  cnt := 0
  buf := []
  len := 0
  fin := false
  errIS := false
  errIC := false
  rsp := none
  seq := .idle
  host := []
  taken := []

end Sys2Proof.Machine
end

