-- ==== Sys2Proof/Machine/Flags.lean ====
section
/-! DEFINITION. The flags FIN, ERR_IS and ERR_IC and the STATUS register made of them (10_state.md R27 to R29). -/
namespace Sys2Proof.Machine

/-- `STATUS = {00000, ERR_IC, ERR_IS, FIN}` (R29, R88). -/
def statusReg (s : State) : Byte :=
  0#5 ++ BitVec.ofBool s.errIC ++ BitVec.ofBool s.errIS ++ BitVec.ofBool s.fin

/-- Set the sticky bit of an error (R28, R143). -/
def setSticky (e : Cause) (s : State) : State :=
  match e with
  | .invalidState => { s with errIS := true }
  | .illegalCommand => { s with errIC := true }

end Sys2Proof.Machine
end

