-- ==== Sys2Proof/Machine/Ops.lean ====
section
/-! DEFINITION. The named operations on BUF and on the ports: byte and little-endian word access (00_scope.md R10,
20_memory.md R43), the response (30_encoding.md R63), raising an error (60_exceptions.md R143), and what the host does to the
engine (70_reset_and_hazards.md R174). -/
namespace Sys2Proof.Machine

/-- What a cell that nothing has written reads as. The spec leaves it open and no rule reads it (R25, assumption log 3). -/
def Memory.unwritten : Byte := 0

/-- The byte at address `a`. -/
def Memory.read : Memory → Nat → Byte
  | [], _ => Memory.unwritten
  | c :: m, a => if c.1 = a then c.2 else Memory.read m a

/-- Forget address `a`: it reads as nothing had written it. -/
def Memory.erase (m : Memory) (a : Nat) : Memory := m.filter (fun c => c.1 ≠ a)

/-- List byte `b` at address `a`, in its place among rising addresses. -/
def Memory.insert : Memory → Nat → Byte → Memory
  | [], a, b => [(a, b)]
  | c :: m, a, b =>
    if a < c.1 then (a, b) :: c :: m
    else if a = c.1 then (a, b) :: m
    else c :: Memory.insert m a b

/-- `MemWrite(a, 1, b)` (R10), keeping the canonical form: the byte an unlisted address reads as is not listed. -/
def Memory.write (m : Memory) (a : Nat) (b : Byte) : Memory :=
  if b = Memory.unwritten then Memory.erase m a else Memory.insert m a b

/-- The canonical form of BUF: addresses 0 to 63 (R40), strictly rising, and no entry that reads as unlisted. -/
abbrev Memory.wf (m : Memory) : Prop :=
  m.Pairwise (fun c e => c.1 < e.1) ∧ ∀ c ∈ m, c.2 ≠ Memory.unwritten ∧ c.1 < 64

/-- `MemRead(a, n)`: `n` bytes from address `a` as one unsigned number, little-endian (R10, R43). -/
def Memory.readLE (m : Memory) (a : Nat) : Nat → Nat
  | 0 => 0
  | n + 1 => (Memory.read m a).toNat + 256 * Memory.readLE m (a + 1) n

/-- A response word: `rsp[15:10] = 0`, `rsp[9:8] = rc`, `rsp[7:0] = data` (R63). -/
def responseWord (rc : BitVec 2) (data : Byte) : PortWord := 0#6 ++ rc ++ data

/-- The return code of an error (R63, R140); OK is 0. -/
def causeCode : Cause → BitVec 2
  | .invalidState => 1
  | .illegalCommand => 2

/-- `rsp <- (OK, data)` (R10, R63). -/
def respond (data : Byte) (s : State) : State := { s with rsp := some (responseWord 0 data) }

/-- `raise E` (R143): the engine's one way of taking an exception. Set the sticky bit of `E` and answer with its code and
data 0x00; nothing else changes, nothing is saved, control goes nowhere. There is nothing to return from (R145): the next
command runs by the normal rules. -/
def raise (e : Cause) (s : State) : State :=
  { setSticky e s with rsp := some (responseWord (causeCode e) 0) }

/-- `cmd_ready` (R61): no response waits to be taken and no command is in flight. -/
def cmdReady (s : State) : Bool := s.rsp.isNone && decide (s.seq = .idle)

/-- The host takes the response (R62); with `rsp_valid = 0` nothing is transferred (assumption log 8). -/
def takeResponse (s : State) : State :=
  match s.rsp with
  | some r => { s with rsp := none, taken := s.taken ++ [r] }
  | none => s

/-- `rst` (R160, R163): the reset state whatever the engine was doing, a response not yet taken is lost. What the host does
next and has already seen are the host's own (assumption log 6). -/
def hardReset (s : State) : State := { State.reset with host := s.host, taken := s.taken }

end Sys2Proof.Machine
end

