-- ==== Sys2Proof/Machine/Control.lean ====
section
/-! DEFINITION. The commands NOP, INIT and RDSTAT (40_host_commands.md R81, R82, R88): legal in every state (R89). -/
namespace Sys2Proof.Machine

/-- NOP (R81). -/
def execNop (s : State) : Host.Outcome State Fault Refusal := .next (respond 0 s)

/-- INIT (R82): BUF, `x`, ERR_IS and ERR_IC are not touched (R35). -/
def execInit (s : State) : Host.Outcome State Fault Refusal :=
  .next (respond 0 { s with h := Quad.iv, cnt := 0, len := 0, fin := false })

/-- RDSTAT (R88). -/
def execRdstat (s : State) : Host.Outcome State Fault Refusal := .next (respond (statusReg s) s)

end Sys2Proof.Machine
end

