-- ==== Sys2Proof/Machine/BlockTransform.lean ====
section
/-! DEFINITION. The block transformer (42_block_transform.md): the step ROM, the round functions, the four step kinds, and
the procedure Transform. -/
namespace Sys2Proof.Machine

/-- The round function an entry selects: the field `fn`, 0 F, 1 G, 2 H, 3 I (R70). -/
inductive RoundFn where
  | F
  | G
  | H
  | I
deriving DecidableEq, Repr

/-- An entry of the step ROM (R70): the round function, the message word index, the rotation amount, the constant. -/
structure RomEntry where
  fn : RoundFn
  g : BitVec 4
  s : BitVec 5
  k : Word
deriving DecidableEq, Repr

/-- Round 0 of the table of R124. -/
def romRound0 : List RomEntry :=
  [⟨.F, 0, 7, 0xD76AA478⟩,
   ⟨.F, 1, 12, 0xE8C7B756⟩,
   ⟨.F, 2, 17, 0x242070DB⟩,
   ⟨.F, 3, 22, 0xC1BDCEEE⟩,
   ⟨.F, 4, 7, 0xF57C0FAF⟩,
   ⟨.F, 5, 12, 0x4787C62A⟩,
   ⟨.F, 6, 17, 0xA8304613⟩,
   ⟨.F, 7, 22, 0xFD469501⟩,
   ⟨.F, 8, 7, 0x698098D8⟩,
   ⟨.F, 9, 12, 0x8B44F7AF⟩,
   ⟨.F, 10, 17, 0xFFFF5BB1⟩,
   ⟨.F, 11, 22, 0x895CD7BE⟩,
   ⟨.F, 12, 7, 0x6B901122⟩,
   ⟨.F, 13, 12, 0xFD987193⟩,
   ⟨.F, 14, 17, 0xA679438E⟩,
   ⟨.F, 15, 22, 0x49B40821⟩]

/-- Round 1 of the table of R124. -/
def romRound1 : List RomEntry :=
  [⟨.G, 1, 5, 0xF61E2562⟩,
   ⟨.G, 6, 9, 0xC040B340⟩,
   ⟨.G, 11, 14, 0x265E5A51⟩,
   ⟨.G, 0, 20, 0xE9B6C7AA⟩,
   ⟨.G, 5, 5, 0xD62F105D⟩,
   ⟨.G, 10, 9, 0x02441453⟩,
   ⟨.G, 15, 14, 0xD8A1E681⟩,
   ⟨.G, 4, 20, 0xE7D3FBC8⟩,
   ⟨.G, 9, 5, 0x21E1CDE6⟩,
   ⟨.G, 14, 9, 0xC33707D6⟩,
   ⟨.G, 3, 14, 0xF4D50D87⟩,
   ⟨.G, 8, 20, 0x455A14ED⟩,
   ⟨.G, 13, 5, 0xA9E3E905⟩,
   ⟨.G, 2, 9, 0xFCEFA3F8⟩,
   ⟨.G, 7, 14, 0x676F02D9⟩,
   ⟨.G, 12, 20, 0x8D2A4C8A⟩]

/-- Round 2 of the table of R124. -/
def romRound2 : List RomEntry :=
  [⟨.H, 5, 4, 0xFFFA3942⟩,
   ⟨.H, 8, 11, 0x8771F681⟩,
   ⟨.H, 11, 16, 0x6D9D6122⟩,
   ⟨.H, 14, 23, 0xFDE5380C⟩,
   ⟨.H, 1, 4, 0xA4BEEA44⟩,
   ⟨.H, 4, 11, 0x4BDECFA9⟩,
   ⟨.H, 7, 16, 0xF6BB4B60⟩,
   ⟨.H, 10, 23, 0xBEBFBC70⟩,
   ⟨.H, 13, 4, 0x289B7EC6⟩,
   ⟨.H, 0, 11, 0xEAA127FA⟩,
   ⟨.H, 3, 16, 0xD4EF3085⟩,
   ⟨.H, 6, 23, 0x04881D05⟩,
   ⟨.H, 9, 4, 0xD9D4D039⟩,
   ⟨.H, 12, 11, 0xE6DB99E5⟩,
   ⟨.H, 15, 16, 0x1FA27CF8⟩,
   ⟨.H, 2, 23, 0xC4AC5665⟩]

/-- Round 3 of the table of R124. -/
def romRound3 : List RomEntry :=
  [⟨.I, 0, 6, 0xF4292244⟩,
   ⟨.I, 7, 10, 0x432AFF97⟩,
   ⟨.I, 14, 15, 0xAB9423A7⟩,
   ⟨.I, 5, 21, 0xFC93A039⟩,
   ⟨.I, 12, 6, 0x655B59C3⟩,
   ⟨.I, 3, 10, 0x8F0CCC92⟩,
   ⟨.I, 10, 15, 0xFFEFF47D⟩,
   ⟨.I, 1, 21, 0x85845DD1⟩,
   ⟨.I, 8, 6, 0x6FA87E4F⟩,
   ⟨.I, 15, 10, 0xFE2CE6E0⟩,
   ⟨.I, 6, 15, 0xA3014314⟩,
   ⟨.I, 13, 21, 0x4E0811A1⟩,
   ⟨.I, 4, 6, 0xF7537E82⟩,
   ⟨.I, 11, 10, 0xBD3AF235⟩,
   ⟨.I, 2, 15, 0x2AD7D2BB⟩,
   ⟨.I, 9, 21, 0xEB86D391⟩]

/-- The 64 entries (R124). -/
def romTable : List RomEntry := romRound0 ++ romRound1 ++ romRound2 ++ romRound3

/-- One entry for each step index (R70). -/
theorem romTable_length : romTable.length = 64 := rfl

/-- The entry at address `i` (R42, R70). -/
def rom (i : BitVec 6) : RomEntry := romTable[i.toNat]'(by rw [romTable_length]; exact i.isLt)

/-- The constant table `K[i]`, the space KROM (R40, R119). -/
def krom (i : BitVec 6) : Word := (rom i).k

/-- The rotation table `S[i]`, the space SROM (R40, R118). -/
def srom (i : BitVec 6) : BitVec 5 := (rom i).s

/-- `Fn_F` (R113). -/
def fnF (x y z : Word) : Word := (x &&& y) ||| (~~~x &&& z)

/-- `Fn_G` (R114). -/
def fnG (x y z : Word) : Word := (x &&& z) ||| (y &&& ~~~z)

/-- `Fn_H` (R115). -/
def fnH (x y z : Word) : Word := x ^^^ y ^^^ z

/-- `Fn_I` (R116). -/
def fnI (x y z : Word) : Word := y ^^^ (x ||| ~~~z)

/-- `rotl32(v, s)` for 1 ≤ s ≤ 31 (R9). -/
def rotl32 (v : Word) (s : Nat) : Word := (v <<< s) ||| (v >>> (32 - s))

/-- `M[g] = MemRead(4*g, 4)` (R111). -/
def msgWord (m : Memory) (g : BitVec 4) : Word := BitVec.ofNat 32 (Memory.readLE m (4 * g.toNat) 4)

/-- What every step does to the working registers (R120 to R123), for a round function `f`, a constant `k`, a message word
`m` and a rotation `r`: the new value becomes the new `b`. -/
def stepRegs (f : Word → Word → Word → Word) (k m : Word) (r : Nat) (q : Quad) : Quad :=
  let t := q.a + f q.b q.c q.d + k + m
  let nb := q.b + rotl32 t r
  ⟨q.d, nb, q.b, q.c⟩

/-- Step `i` with round function `f`: the working registers, and `pc <- pc + 1` (R23). -/
def stepWith (f : Word → Word → Word → Word) (i : BitVec 6) (s : State) : State :=
  { s with x := stepRegs f (krom i) (msgWord s.buf (rom i).g) (srom i).toNat s.x, pc := s.pc + 1 }

/-- The FF step (R120). -/
def stepFF (i : BitVec 6) (s : State) : State := stepWith fnF i s

/-- The GG step (R121). -/
def stepGG (i : BitVec 6) (s : State) : State := stepWith fnG i s

/-- The HH step (R122). -/
def stepHH (i : BitVec 6) (s : State) : State := stepWith fnH i s

/-- The II step (R123). -/
def stepII (i : BitVec 6) (s : State) : State := stepWith fnI i s

/-- `Step(i)` (R110): the kind that the entry's round function selects (R70). -/
def romStep (i : BitVec 6) (s : State) : State :=
  match (rom i).fn with
  | .F => stepFF i s
  | .G => stepGG i s
  | .H => stepHH i s
  | .I => stepII i s

/-- The start of `Transform` (R110, R112): `x[j] <- H[j]`, `pc <- 0`. -/
def startTransform (s : State) : State := { s with x := s.h, pc := 0, seq := .running }

/-- `n` steps, each the one at `pc`. -/
def runSteps : Nat → State → State
  | 0, s => s
  | n + 1, s => runSteps n (romStep s.pc s)

/-- Addition modulo 2^32 of the four registers (R125). -/
def addQuad (p q : Quad) : Quad := ⟨p.a + q.a, p.b + q.b, p.c + q.c, p.d + q.d⟩

/-- The end of `Transform` (R110, R125): `H[j] <- H[j] +32 x[j]`, `pc <- 0`. -/
def finishTransform (s : State) : State := { s with h := addQuad s.h s.x, pc := 0, seq := .idle }

/-- `Transform()` (R110): 64 steps between the copy of H and the add-in. -/
def transform (s : State) : State := finishTransform (runSteps 64 (startTransform s))

end Sys2Proof.Machine
end

