-- ==== Sys2Proof/Machine/Operands.lean ====
section
/-! DEFINITION. The operand forms of the host commands: one unsigned byte, or an index in its low bits (30_encoding.md R66).
The operands of the step kinds are implicit (R120) and stand in Machine/BlockTransform.lean. -/
namespace Sys2Proof.Machine

/-- UPDATE's message byte `b = imm8` (R66, R83). -/
def messageByte (imm8 : Byte) : Byte := imm8

/-- RDHEX's index `k = imm8[4:0]`; none where `imm8[7:5]` is not 0 (R66). -/
def hexIndex (imm8 : Byte) : Option (BitVec 5) :=
  if imm8.extractLsb' 5 3 = 0 then some (imm8.extractLsb' 0 5) else none

/-- RDDIG's index `k = imm8[3:0]`; none where `imm8[7:4]` is not 0 (R66). -/
def digIndex (imm8 : Byte) : Option (BitVec 4) :=
  if imm8.extractLsb' 4 4 = 0 then some (imm8.extractLsb' 0 4) else none

end Sys2Proof.Machine
end

