-- ==== Sys2Proof/Machine/Message.lean ====
section
/-! DEFINITION. The commands UPDATE and DIGEST: absorbing a byte (40_host_commands.md R83, R84), padding and finalization
(R85, 41_padding_finalization.md). -/
namespace Sys2Proof.Machine

/-- `BUF[LEN] <- b` and `CNT <- CNT +64 8`, the first two lines of `Absorb` (R84). -/
def storeByte (b : Byte) (s : State) : State :=
  { s with buf := Memory.write s.buf s.len.toNat b, cnt := s.cnt + 8 }

/-- `Absorb(b)` (R84): the 64th byte runs `Transform` and empties the buffer. -/
def absorb (b : Byte) (s : State) : State :=
  if s.len = 63 then { transform (storeByte b s) with len := 0 }
  else { storeByte b s with len := s.len + 1 }

/-- `Absorb` of each byte in turn. -/
def absorbAll (bs : List Byte) (s : State) : State := bs.foldl (fun t b => absorb b t) s

/-- The padding length P (R100). -/
def padLength (n : BitVec 6) : Nat := if n.toNat < 56 then 56 - n.toNat else 120 - n.toNat

/-- Trailer byte `j` is `T[8j+7:8j]` (R102). -/
def trailer (t : BitVec 64) : List Byte := (List.range 8).map (fun j => t.extractLsb' (8 * j) 8)

/-- The bytes DIGEST absorbs: the padding (R101) and the trailer (R102). -/
def finalBytes (n : BitVec 6) (t : BitVec 64) : List Byte :=
  0x80 :: List.replicate (padLength n - 1) 0x00 ++ trailer t

/-- UPDATE b (R83). -/
def execUpdate (imm8 : Byte) (s : State) : Host.Outcome State Fault Refusal :=
  if s.fin then .next (raise .invalidState s)
  else .next (respond 0 (absorb (messageByte imm8) s))

/-- DIGEST (R85): the trailer holds the count from before the padding (R103). -/
def execDigest (s : State) : Host.Outcome State Fault Refusal :=
  if s.fin then .next (raise .invalidState s)
  else .next (respond 0 { absorbAll (finalBytes s.len s.cnt) s with fin := true })

end Sys2Proof.Machine
end

