-- ==== Sys2Proof/Machine/Readout.lean ====
section
/-! DEFINITION. The serializer (43_serializer.md) and the commands RDHEX and RDDIG that read it
(40_host_commands.md R86, R87). -/
namespace Sys2Proof.Machine

/-- `H[q]` (R10). -/
def Quad.get (h : Quad) (q : BitVec 2) : Word :=
  match q.toNat with
  | 0 => h.a
  | 1 => h.b
  | 2 => h.c
  | _ => h.d

/-- `DG[k] = H[k div 4][8*(k mod 4)+7 : 8*(k mod 4)]`, the space DG (R31, R40, R130). -/
def dg (h : Quad) (k : BitVec 4) : Byte :=
  (h.get (k.extractLsb' 2 2)).extractLsb' (8 * (k.extractLsb' 0 2).toNat) 8

/-- `hexdigit(v)`, lowercase ASCII (R131). -/
def hexDigit (v : BitVec 4) : Byte :=
  if v.toNat ≤ 9 then 0x30 + v.setWidth 8 else 0x61 + (v.setWidth 8 - 10)

/-- `HEX[c]`: the high nibble of `DG[c div 2]` for an even `c`, the low one for an odd `c`, the space HEX (R32, R40, R132). -/
def hex (h : Quad) (c : BitVec 5) : Byte :=
  let byte := dg h (c.extractLsb' 1 4)
  hexDigit (if c.toNat % 2 = 0 then byte.extractLsb' 4 4 else byte.extractLsb' 0 4)

/-- A read command: `index` is its operand and `view` what it reads. An operand with bits it must not have is no command word
and ends as R67 (c) says (assumption log 12); then FIN decides (R86, R87, R89). -/
def readView {w : Nat} (index : Option (BitVec w)) (view : BitVec w → Byte) (s : State) : State :=
  match index with
  | none => raise .illegalCommand s
  | some k => if s.fin then respond (view k) s else raise .invalidState s

/-- RDHEX k (R86). -/
def execRdhex (imm8 : Byte) (s : State) : Host.Outcome State Fault Refusal :=
  .next (readView (hexIndex imm8) (hex s.h) s)

/-- RDDIG k (R87). -/
def execRddig (imm8 : Byte) (s : State) : Host.Outcome State Fault Refusal :=
  .next (readView (digIndex imm8) (dg s.h) s)

end Sys2Proof.Machine
end

