-- ==== Sys2Proof/Machine/RomSteps.lean ====
section
/-! DEFINITION. The meanings of the 64 entries of the step ROM, one each: the step kind of its round (R120 to R123) with the
entry's own index, which names its g, s and K (R124). -/
namespace Sys2Proof.Machine

/-- STEP00_FF (R120). -/
def execStep00FF (s : State) : Host.Outcome State Fault Refusal := .next (stepFF 0 s)

/-- STEP01_FF (R120). -/
def execStep01FF (s : State) : Host.Outcome State Fault Refusal := .next (stepFF 1 s)

/-- STEP02_FF (R120). -/
def execStep02FF (s : State) : Host.Outcome State Fault Refusal := .next (stepFF 2 s)

/-- STEP03_FF (R120). -/
def execStep03FF (s : State) : Host.Outcome State Fault Refusal := .next (stepFF 3 s)

/-- STEP04_FF (R120). -/
def execStep04FF (s : State) : Host.Outcome State Fault Refusal := .next (stepFF 4 s)

/-- STEP05_FF (R120). -/
def execStep05FF (s : State) : Host.Outcome State Fault Refusal := .next (stepFF 5 s)

/-- STEP06_FF (R120). -/
def execStep06FF (s : State) : Host.Outcome State Fault Refusal := .next (stepFF 6 s)

/-- STEP07_FF (R120). -/
def execStep07FF (s : State) : Host.Outcome State Fault Refusal := .next (stepFF 7 s)

/-- STEP08_FF (R120). -/
def execStep08FF (s : State) : Host.Outcome State Fault Refusal := .next (stepFF 8 s)

/-- STEP09_FF (R120). -/
def execStep09FF (s : State) : Host.Outcome State Fault Refusal := .next (stepFF 9 s)

/-- STEP10_FF (R120). -/
def execStep10FF (s : State) : Host.Outcome State Fault Refusal := .next (stepFF 10 s)

/-- STEP11_FF (R120). -/
def execStep11FF (s : State) : Host.Outcome State Fault Refusal := .next (stepFF 11 s)

/-- STEP12_FF (R120). -/
def execStep12FF (s : State) : Host.Outcome State Fault Refusal := .next (stepFF 12 s)

/-- STEP13_FF (R120). -/
def execStep13FF (s : State) : Host.Outcome State Fault Refusal := .next (stepFF 13 s)

/-- STEP14_FF (R120). -/
def execStep14FF (s : State) : Host.Outcome State Fault Refusal := .next (stepFF 14 s)

/-- STEP15_FF (R120). -/
def execStep15FF (s : State) : Host.Outcome State Fault Refusal := .next (stepFF 15 s)

/-- STEP16_GG (R121). -/
def execStep16GG (s : State) : Host.Outcome State Fault Refusal := .next (stepGG 16 s)

/-- STEP17_GG (R121). -/
def execStep17GG (s : State) : Host.Outcome State Fault Refusal := .next (stepGG 17 s)

/-- STEP18_GG (R121). -/
def execStep18GG (s : State) : Host.Outcome State Fault Refusal := .next (stepGG 18 s)

/-- STEP19_GG (R121). -/
def execStep19GG (s : State) : Host.Outcome State Fault Refusal := .next (stepGG 19 s)

/-- STEP20_GG (R121). -/
def execStep20GG (s : State) : Host.Outcome State Fault Refusal := .next (stepGG 20 s)

/-- STEP21_GG (R121). -/
def execStep21GG (s : State) : Host.Outcome State Fault Refusal := .next (stepGG 21 s)

/-- STEP22_GG (R121). -/
def execStep22GG (s : State) : Host.Outcome State Fault Refusal := .next (stepGG 22 s)

/-- STEP23_GG (R121). -/
def execStep23GG (s : State) : Host.Outcome State Fault Refusal := .next (stepGG 23 s)

/-- STEP24_GG (R121). -/
def execStep24GG (s : State) : Host.Outcome State Fault Refusal := .next (stepGG 24 s)

/-- STEP25_GG (R121). -/
def execStep25GG (s : State) : Host.Outcome State Fault Refusal := .next (stepGG 25 s)

/-- STEP26_GG (R121). -/
def execStep26GG (s : State) : Host.Outcome State Fault Refusal := .next (stepGG 26 s)

/-- STEP27_GG (R121). -/
def execStep27GG (s : State) : Host.Outcome State Fault Refusal := .next (stepGG 27 s)

/-- STEP28_GG (R121). -/
def execStep28GG (s : State) : Host.Outcome State Fault Refusal := .next (stepGG 28 s)

/-- STEP29_GG (R121). -/
def execStep29GG (s : State) : Host.Outcome State Fault Refusal := .next (stepGG 29 s)

/-- STEP30_GG (R121). -/
def execStep30GG (s : State) : Host.Outcome State Fault Refusal := .next (stepGG 30 s)

/-- STEP31_GG (R121). -/
def execStep31GG (s : State) : Host.Outcome State Fault Refusal := .next (stepGG 31 s)

/-- STEP32_HH (R122). -/
def execStep32HH (s : State) : Host.Outcome State Fault Refusal := .next (stepHH 32 s)

/-- STEP33_HH (R122). -/
def execStep33HH (s : State) : Host.Outcome State Fault Refusal := .next (stepHH 33 s)

/-- STEP34_HH (R122). -/
def execStep34HH (s : State) : Host.Outcome State Fault Refusal := .next (stepHH 34 s)

/-- STEP35_HH (R122). -/
def execStep35HH (s : State) : Host.Outcome State Fault Refusal := .next (stepHH 35 s)

/-- STEP36_HH (R122). -/
def execStep36HH (s : State) : Host.Outcome State Fault Refusal := .next (stepHH 36 s)

/-- STEP37_HH (R122). -/
def execStep37HH (s : State) : Host.Outcome State Fault Refusal := .next (stepHH 37 s)

/-- STEP38_HH (R122). -/
def execStep38HH (s : State) : Host.Outcome State Fault Refusal := .next (stepHH 38 s)

/-- STEP39_HH (R122). -/
def execStep39HH (s : State) : Host.Outcome State Fault Refusal := .next (stepHH 39 s)

/-- STEP40_HH (R122). -/
def execStep40HH (s : State) : Host.Outcome State Fault Refusal := .next (stepHH 40 s)

/-- STEP41_HH (R122). -/
def execStep41HH (s : State) : Host.Outcome State Fault Refusal := .next (stepHH 41 s)

/-- STEP42_HH (R122). -/
def execStep42HH (s : State) : Host.Outcome State Fault Refusal := .next (stepHH 42 s)

/-- STEP43_HH (R122). -/
def execStep43HH (s : State) : Host.Outcome State Fault Refusal := .next (stepHH 43 s)

/-- STEP44_HH (R122). -/
def execStep44HH (s : State) : Host.Outcome State Fault Refusal := .next (stepHH 44 s)

/-- STEP45_HH (R122). -/
def execStep45HH (s : State) : Host.Outcome State Fault Refusal := .next (stepHH 45 s)

/-- STEP46_HH (R122). -/
def execStep46HH (s : State) : Host.Outcome State Fault Refusal := .next (stepHH 46 s)

/-- STEP47_HH (R122). -/
def execStep47HH (s : State) : Host.Outcome State Fault Refusal := .next (stepHH 47 s)

/-- STEP48_II (R123). -/
def execStep48II (s : State) : Host.Outcome State Fault Refusal := .next (stepII 48 s)

/-- STEP49_II (R123). -/
def execStep49II (s : State) : Host.Outcome State Fault Refusal := .next (stepII 49 s)

/-- STEP50_II (R123). -/
def execStep50II (s : State) : Host.Outcome State Fault Refusal := .next (stepII 50 s)

/-- STEP51_II (R123). -/
def execStep51II (s : State) : Host.Outcome State Fault Refusal := .next (stepII 51 s)

/-- STEP52_II (R123). -/
def execStep52II (s : State) : Host.Outcome State Fault Refusal := .next (stepII 52 s)

/-- STEP53_II (R123). -/
def execStep53II (s : State) : Host.Outcome State Fault Refusal := .next (stepII 53 s)

/-- STEP54_II (R123). -/
def execStep54II (s : State) : Host.Outcome State Fault Refusal := .next (stepII 54 s)

/-- STEP55_II (R123). -/
def execStep55II (s : State) : Host.Outcome State Fault Refusal := .next (stepII 55 s)

/-- STEP56_II (R123). -/
def execStep56II (s : State) : Host.Outcome State Fault Refusal := .next (stepII 56 s)

/-- STEP57_II (R123). -/
def execStep57II (s : State) : Host.Outcome State Fault Refusal := .next (stepII 57 s)

/-- STEP58_II (R123). -/
def execStep58II (s : State) : Host.Outcome State Fault Refusal := .next (stepII 58 s)

/-- STEP59_II (R123). -/
def execStep59II (s : State) : Host.Outcome State Fault Refusal := .next (stepII 59 s)

/-- STEP60_II (R123). -/
def execStep60II (s : State) : Host.Outcome State Fault Refusal := .next (stepII 60 s)

/-- STEP61_II (R123). -/
def execStep61II (s : State) : Host.Outcome State Fault Refusal := .next (stepII 61 s)

/-- STEP62_II (R123). -/
def execStep62II (s : State) : Host.Outcome State Fault Refusal := .next (stepII 62 s)

/-- STEP63_II (R123). -/
def execStep63II (s : State) : Host.Outcome State Fault Refusal := .next (stepII 63 s)

end Sys2Proof.Machine
end

