-- ==== Sys2Proof/Machine/Dispatch.lean ====
section
/-! DEFINITION. exec: one arm per instruction, each one direct call of its meaning. -/
namespace Sys2Proof.Machine

def exec (i : Instr) (s : State) : Host.Outcome State Fault Refusal :=
  match i with
  | .nop => Sys2Proof.Machine.execNop s
  | .init => Sys2Proof.Machine.execInit s
  | .update b => Sys2Proof.Machine.execUpdate b s
  | .digest => Sys2Proof.Machine.execDigest s
  | .rdhex imm8 => Sys2Proof.Machine.execRdhex imm8 s
  | .rddig imm8 => Sys2Proof.Machine.execRddig imm8 s
  | .rdstat => Sys2Proof.Machine.execRdstat s
  | .step00FF => Sys2Proof.Machine.execStep00FF s
  | .step01FF => Sys2Proof.Machine.execStep01FF s
  | .step02FF => Sys2Proof.Machine.execStep02FF s
  | .step03FF => Sys2Proof.Machine.execStep03FF s
  | .step04FF => Sys2Proof.Machine.execStep04FF s
  | .step05FF => Sys2Proof.Machine.execStep05FF s
  | .step06FF => Sys2Proof.Machine.execStep06FF s
  | .step07FF => Sys2Proof.Machine.execStep07FF s
  | .step08FF => Sys2Proof.Machine.execStep08FF s
  | .step09FF => Sys2Proof.Machine.execStep09FF s
  | .step10FF => Sys2Proof.Machine.execStep10FF s
  | .step11FF => Sys2Proof.Machine.execStep11FF s
  | .step12FF => Sys2Proof.Machine.execStep12FF s
  | .step13FF => Sys2Proof.Machine.execStep13FF s
  | .step14FF => Sys2Proof.Machine.execStep14FF s
  | .step15FF => Sys2Proof.Machine.execStep15FF s
  | .step16GG => Sys2Proof.Machine.execStep16GG s
  | .step17GG => Sys2Proof.Machine.execStep17GG s
  | .step18GG => Sys2Proof.Machine.execStep18GG s
  | .step19GG => Sys2Proof.Machine.execStep19GG s
  | .step20GG => Sys2Proof.Machine.execStep20GG s
  | .step21GG => Sys2Proof.Machine.execStep21GG s
  | .step22GG => Sys2Proof.Machine.execStep22GG s
  | .step23GG => Sys2Proof.Machine.execStep23GG s
  | .step24GG => Sys2Proof.Machine.execStep24GG s
  | .step25GG => Sys2Proof.Machine.execStep25GG s
  | .step26GG => Sys2Proof.Machine.execStep26GG s
  | .step27GG => Sys2Proof.Machine.execStep27GG s
  | .step28GG => Sys2Proof.Machine.execStep28GG s
  | .step29GG => Sys2Proof.Machine.execStep29GG s
  | .step30GG => Sys2Proof.Machine.execStep30GG s
  | .step31GG => Sys2Proof.Machine.execStep31GG s
  | .step32HH => Sys2Proof.Machine.execStep32HH s
  | .step33HH => Sys2Proof.Machine.execStep33HH s
  | .step34HH => Sys2Proof.Machine.execStep34HH s
  | .step35HH => Sys2Proof.Machine.execStep35HH s
  | .step36HH => Sys2Proof.Machine.execStep36HH s
  | .step37HH => Sys2Proof.Machine.execStep37HH s
  | .step38HH => Sys2Proof.Machine.execStep38HH s
  | .step39HH => Sys2Proof.Machine.execStep39HH s
  | .step40HH => Sys2Proof.Machine.execStep40HH s
  | .step41HH => Sys2Proof.Machine.execStep41HH s
  | .step42HH => Sys2Proof.Machine.execStep42HH s
  | .step43HH => Sys2Proof.Machine.execStep43HH s
  | .step44HH => Sys2Proof.Machine.execStep44HH s
  | .step45HH => Sys2Proof.Machine.execStep45HH s
  | .step46HH => Sys2Proof.Machine.execStep46HH s
  | .step47HH => Sys2Proof.Machine.execStep47HH s
  | .step48II => Sys2Proof.Machine.execStep48II s
  | .step49II => Sys2Proof.Machine.execStep49II s
  | .step50II => Sys2Proof.Machine.execStep50II s
  | .step51II => Sys2Proof.Machine.execStep51II s
  | .step52II => Sys2Proof.Machine.execStep52II s
  | .step53II => Sys2Proof.Machine.execStep53II s
  | .step54II => Sys2Proof.Machine.execStep54II s
  | .step55II => Sys2Proof.Machine.execStep55II s
  | .step56II => Sys2Proof.Machine.execStep56II s
  | .step57II => Sys2Proof.Machine.execStep57II s
  | .step58II => Sys2Proof.Machine.execStep58II s
  | .step59II => Sys2Proof.Machine.execStep59II s
  | .step60II => Sys2Proof.Machine.execStep60II s
  | .step61II => Sys2Proof.Machine.execStep61II s
  | .step62II => Sys2Proof.Machine.execStep62II s
  | .step63II => Sys2Proof.Machine.execStep63II s

end Sys2Proof.Machine
end

