-- ==== Sys2Proof/Machine/Sequencing.lean ====
section
/-! DEFINITION. What happens next: the host's next action (30_encoding.md R61, R62, 70_reset_and_hazards.md R160), the
decoding and execution of a command word (40_host_commands.md R80), and the sequencer's own step inside a Transform
(42_block_transform.md R110). -/
namespace Sys2Proof.Machine

/-- An accepted command word (R80): decode first; an illegal word raises IllegalCommand whatever the state (R142, R144);
a legal one runs, its meaning checks the state. -/
def runCommand (w : PortWord) (s : State) : Host.Outcome State Fault Refusal :=
  match decodeCommand w with
  | .ok i => exec i s
  | .error _ => .next (raise .illegalCommand s)

/-- After the step at `pc = i`: step 63 is followed by the end of `Transform` (R23, R110). -/
def afterRomStep (i : BitVec 6) : Host.Outcome State Fault Refusal → Host.Outcome State Fault Refusal
  | .next t => .next (if i = 63 then finishTransform t else t)
  | .fault f => .fault f
  | .refused r => .refused r

/-- One step of the sequencer inside a `Transform`: the ROM entry at `pc` (R42, assumption log 5). -/
def sequencerStep (s : State) : Host.Outcome State Fault Refusal :=
  afterRomStep s.pc (exec (decodeStep s.pc) s)

/-- One step of the engine and its host. `rst` comes before anything (R160, R163). Inside a `Transform` the sequencer runs.
Between commands the host's next action happens: with none the engine waits and holds its state (R154); a command is accepted
when `cmd_ready = 1` and otherwise stays presented (R61); a response is taken (R62). -/
def engineStep (s : State) : Host.Outcome State Fault Refusal :=
  match s.host, s.seq with
  | .reset :: rest, _ => .next (hardReset { s with host := rest })
  | _, .running => sequencerStep s
  | [], .idle => .next s
  | .take :: rest, .idle => .next (takeResponse { s with host := rest })
  | .command w :: rest, .idle => if cmdReady s then runCommand w { s with host := rest } else .next s

/-- The host presents command word `w` next, to an engine with no command in flight. -/
def presentCommand (w : PortWord) (s : State) : State :=
  { s with host := .command w :: s.host, rsp := none, seq := .idle }

/-- The sequencer is inside a `Transform` with `pc` at entry `i`, and the host does not assert `rst` next. -/
def selectEntry (i : BitVec 6) (s : State) : State :=
  { s with pc := i, seq := .running, host := s.host.dropWhile (fun a => decide (a = .reset)) }

/-- `s` with the code of a row of the opcode table as what the next step runs. -/
def placeCode (c : Option Code) (s : State) : State :=
  match c with
  | some (.command w) => presentCommand w s
  | some (.rom i) => selectEntry i s
  | none => s

end Sys2Proof.Machine
end

