-- ==== Sys2Proof/Machine/Step.lean ====
section
/-! DEFINITION. The step, and where its next instruction comes from. -/
namespace Sys2Proof.Machine

/-- One step of the machine. -/
def step (s : State) : Host.Outcome State Fault Refusal := engineStep s

/-- `s` with the instruction whose table bits are `w` where `step` takes its next instruction: a command word as the host's
next action, a step index in `pc` of a running sequencer (assumption logs 1, 5 and 11). -/
def State.withFetchWord (s : State) (nbits w : Nat) : State := placeCode (tableCode nbits w) s

end Sys2Proof.Machine
end

