-- ==== Sys2Proof/Safety.lean ====
section
/-! DEFINITION. The terms that claims about the engine use: the invariants between commands (10_state.md R33), what a host can
tell apart (R25, R170), and MD5 as a function from a message to four words (41_padding_finalization.md R105), written from the
formulas of the rules and not from the machine's own tables and registers. -/
namespace Sys2Proof

open Sys2Proof.Machine

/-- A host command, as against an entry of the step ROM (R65, R70). -/
def Instr.isCommand (i : Instr) : Bool :=
  match encode i with
  | .command _ => true
  | .rom _ => false

/-- A response word the engine can produce: 0x0000 to 0x00FF, 0x0100, 0x0200 (R63). -/
abbrev ResponseLegal (r : PortWord) : Prop := r.toNat ≤ 0xFF ∨ r = 0x0100 ∨ r = 0x0200

/-- What holds between commands (R33): I2 `LEN = CNT[8:3]` and `CNT[2:0] = 0`; I3 `pc = 0`, outside a Transform; I4 with
FIN = 1 the buffer is empty and CNT a multiple of 512; and BUF is in canonical form and a waiting response a legal one. I1
and I6 hold by the types (LEN has 6 bits, STATUS is made of three flags). -/
structure BetweenCommands (s : State) : Prop where
  seq_idle : s.seq = .idle
  pc_zero : s.pc = 0
  len_eq : s.len = s.cnt.extractLsb' 3 6
  cnt_bytes : s.cnt.extractLsb' 0 3 = 0
  finalized : s.fin = true → s.len = 0 ∧ s.cnt.toNat % 512 = 0
  buf_wf : Memory.wf s.buf
  rsp_legal : ∀ r ∈ s.rsp, ResponseLegal r

/-- Two states that differ at most in what no rule reads between commands: `x`, and the cells of BUF at index LEN and above
(R22, R25). -/
structure SameToHost (s t : State) : Prop where
  h_eq : s.h = t.h
  pc_eq : s.pc = t.pc
  cnt_eq : s.cnt = t.cnt
  len_eq : s.len = t.len
  fin_eq : s.fin = t.fin
  errIS_eq : s.errIS = t.errIS
  errIC_eq : s.errIC = t.errIC
  rsp_eq : s.rsp = t.rsp
  seq_eq : s.seq = t.seq
  host_eq : s.host = t.host
  taken_eq : s.taken = t.taken
  pending_eq : ∀ a < s.len.toNat, Memory.read s.buf a = Memory.read t.buf a

/-- The 64 cells of BUF, cell 0 first. -/
def bufBytes (m : Memory) : List Byte := (List.range 64).map (Memory.read m)

/-- The pending bytes `BUF[0..LEN-1]` (R13). -/
def pendingBytes (s : State) : List Byte := (List.range s.len.toNat).map (Memory.read s.buf)

/-- Message word `j` of a block, little-endian (R111). -/
def Md5.word (B : List Byte) (j : Nat) : Word :=
  B.getD (4 * j + 3) 0 ++ B.getD (4 * j + 2) 0 ++ B.getD (4 * j + 1) 0 ++ B.getD (4 * j) 0

/-- The round function of step `i`: F, G, H, I in that order, 16 steps each (R113 to R116). -/
def Md5.fn (i : Nat) (x y z : Word) : Word :=
  match i / 16 with
  | 0 => (x &&& y) ||| (~~~x &&& z)
  | 1 => (x &&& z) ||| (y &&& ~~~z)
  | 2 => x ^^^ y ^^^ z
  | _ => y ^^^ (x ||| ~~~z)

/-- The message word index `g(i)` (R117). -/
def Md5.index (i : Nat) : Nat :=
  match i / 16 with
  | 0 => i
  | 1 => (5 * i + 1) % 16
  | 2 => (3 * i + 5) % 16
  | _ => (7 * i) % 16

/-- The rotation amount: the values of the round's group in turn (R118). -/
def Md5.rotation (i : Nat) : Nat :=
  (([[7, 12, 17, 22], [5, 9, 14, 20], [4, 11, 16, 23], [6, 10, 15, 21]] : List (List Nat)).getD (i / 16) []).getD (i % 4) 0

/-- Step `i` on `(a, b, c, d)` (R120 to R123); `K[i]` is the table itself, which has no other definition (R119). -/
def Md5.step (B : List Byte) (q : Quad) (i : Nat) : Quad :=
  ⟨q.d,
   q.b + (q.a + Md5.fn i q.b q.c q.d + krom (BitVec.ofNat 6 i) + Md5.word B (Md5.index i)).rotateLeft (Md5.rotation i),
   q.b, q.c⟩

/-- The working registers after the first `n` steps over block `B`, from `h`. -/
def Md5.registers (n : Nat) (h : Quad) (B : List Byte) : Quad := (List.range n).foldl (Md5.step B) h

/-- `Compress(h, B)` (R105, R110). -/
def Md5.compress (h : Quad) (B : List Byte) : Quad :=
  let q := Md5.registers 64 h B
  ⟨h.a + q.a, h.b + q.b, h.c + q.c, h.d + q.d⟩

/-- The padding length for a message of `L` bytes (R100). -/
def Md5.padLength (L : Nat) : Nat := if L % 64 ≤ 55 then 56 - L % 64 else 120 - L % 64

/-- `LE64`: the 8 bytes of a 64-bit number, lowest first (R102). -/
def Md5.le64 (t : BitVec 64) : List Byte :=
  [t.extractLsb' 0 8, t.extractLsb' 8 8, t.extractLsb' 16 8, t.extractLsb' 24 8,
   t.extractLsb' 32 8, t.extractLsb' 40 8, t.extractLsb' 48 8, t.extractLsb' 56 8]

/-- `Pad(m)` (R105). -/
def Md5.pad (m : List Byte) : List Byte :=
  m ++ [0x80] ++ List.replicate (Md5.padLength m.length - 1) 0x00 ++ Md5.le64 (BitVec.ofNat 64 (8 * m.length))

/-- `Compress` over `q` consecutive 64-byte blocks (R105). -/
def Md5.compressBlocks : Nat → Quad → List Byte → Quad
  | 0, h, _ => h
  | q + 1, h, bs => Md5.compressBlocks q (Md5.compress h (bs.take 64)) (bs.drop 64)

/-- The four digest words of a message (R105). -/
def Md5.digest (m : List Byte) : Quad := Md5.compressBlocks ((Md5.pad m).length / 64) Quad.iv (Md5.pad m)

/-- The ASCII codes of the hexadecimal digits (R131). -/
def Md5.asciiDigits : List Byte :=
  [0x30, 0x31, 0x32, 0x33, 0x34, 0x35, 0x36, 0x37, 0x38, 0x39, 0x61, 0x62, 0x63, 0x64, 0x65, 0x66]

/-- The eight characters of one word: its nibbles in the order [7:4], [3:0], [15:12], [11:8], [23:20], [19:16], [31:28],
[27:24] (R132). -/
def Md5.wordChars (v : Word) : List Byte :=
  [4, 0, 12, 8, 20, 16, 28, 24].map (fun lo => Md5.asciiDigits.getD (v.extractLsb' lo 4).toNat 0)

/-- The 32 characters of a digest (R133). -/
def Md5.hexString (h : Quad) : List Byte :=
  Md5.wordChars h.a ++ Md5.wordChars h.b ++ Md5.wordChars h.c ++ Md5.wordChars h.d

/-- The four bytes of one word, lowest first (R130). -/
def Md5.wordBytes (v : Word) : List Byte :=
  [v.extractLsb' 0 8, v.extractLsb' 8 8, v.extractLsb' 16 8, v.extractLsb' 24 8]

/-- The 16 bytes of a digest (R130). -/
def Md5.digestBytes (h : Quad) : List Byte :=
  Md5.wordBytes h.a ++ Md5.wordBytes h.b ++ Md5.wordBytes h.c ++ Md5.wordBytes h.d

/-- `UPDATE` of each byte in turn. -/
def feed : List Byte → State → Host.Outcome State Fault Refusal
  | [], s => .next s
  | b :: m, s =>
    match exec (.update b) s with
    | .next t => feed m t
    | .fault f => .fault f
    | .refused r => .refused r

/-- A host that presents each word of a list in turn and takes each response before the next (R61, R173). -/
def hostScript (ws : List PortWord) : List HostAction := ws.flatMap (fun w => [.command w, .take])

/-- `MD5 m` (R72): INIT, one UPDATE for each byte, DIGEST, RDHEX 0 to RDHEX 31. -/
def md5Words (m : List Byte) : List PortWord :=
  [0x1000] ++ m.map (fun b => 0x20#8 ++ b) ++ [0x3000] ++ (List.range 32).map (fun k => 0x4000 + BitVec.ofNat 16 k)

end Sys2Proof
end

