-- ==== Sys2Proof/Certificates/Slice0/Obligations.lean ====
section
/-! DEFINITION. The obligations of this row: what the numbered rules say the engine does, one Prop each, with no proof here. -/

open Sys2Proof Sys2Proof.Machine

/-- A row of the table of R124, as the table prints it. -/
structure Sys2Proof.RomRow where
  instr : Instr
  i : BitVec 6
  g : Nat
  s : Nat
  k : Word

/-- The FF entries of the table of R124. -/
def Sys2Proof.rowsFF : List RomRow :=
  [⟨.step00FF, 0, 0, 7, 0xD76AA478⟩,
   ⟨.step01FF, 1, 1, 12, 0xE8C7B756⟩,
   ⟨.step02FF, 2, 2, 17, 0x242070DB⟩,
   ⟨.step03FF, 3, 3, 22, 0xC1BDCEEE⟩,
   ⟨.step04FF, 4, 4, 7, 0xF57C0FAF⟩,
   ⟨.step05FF, 5, 5, 12, 0x4787C62A⟩,
   ⟨.step06FF, 6, 6, 17, 0xA8304613⟩,
   ⟨.step07FF, 7, 7, 22, 0xFD469501⟩,
   ⟨.step08FF, 8, 8, 7, 0x698098D8⟩,
   ⟨.step09FF, 9, 9, 12, 0x8B44F7AF⟩,
   ⟨.step10FF, 10, 10, 17, 0xFFFF5BB1⟩,
   ⟨.step11FF, 11, 11, 22, 0x895CD7BE⟩,
   ⟨.step12FF, 12, 12, 7, 0x6B901122⟩,
   ⟨.step13FF, 13, 13, 12, 0xFD987193⟩,
   ⟨.step14FF, 14, 14, 17, 0xA679438E⟩,
   ⟨.step15FF, 15, 15, 22, 0x49B40821⟩]

/-- The GG entries of the table of R124. -/
def Sys2Proof.rowsGG : List RomRow :=
  [⟨.step16GG, 16, 1, 5, 0xF61E2562⟩,
   ⟨.step17GG, 17, 6, 9, 0xC040B340⟩,
   ⟨.step18GG, 18, 11, 14, 0x265E5A51⟩,
   ⟨.step19GG, 19, 0, 20, 0xE9B6C7AA⟩,
   ⟨.step20GG, 20, 5, 5, 0xD62F105D⟩,
   ⟨.step21GG, 21, 10, 9, 0x02441453⟩,
   ⟨.step22GG, 22, 15, 14, 0xD8A1E681⟩,
   ⟨.step23GG, 23, 4, 20, 0xE7D3FBC8⟩,
   ⟨.step24GG, 24, 9, 5, 0x21E1CDE6⟩,
   ⟨.step25GG, 25, 14, 9, 0xC33707D6⟩,
   ⟨.step26GG, 26, 3, 14, 0xF4D50D87⟩,
   ⟨.step27GG, 27, 8, 20, 0x455A14ED⟩,
   ⟨.step28GG, 28, 13, 5, 0xA9E3E905⟩,
   ⟨.step29GG, 29, 2, 9, 0xFCEFA3F8⟩,
   ⟨.step30GG, 30, 7, 14, 0x676F02D9⟩,
   ⟨.step31GG, 31, 12, 20, 0x8D2A4C8A⟩]

/-- The HH entries of the table of R124. -/
def Sys2Proof.rowsHH : List RomRow :=
  [⟨.step32HH, 32, 5, 4, 0xFFFA3942⟩,
   ⟨.step33HH, 33, 8, 11, 0x8771F681⟩,
   ⟨.step34HH, 34, 11, 16, 0x6D9D6122⟩,
   ⟨.step35HH, 35, 14, 23, 0xFDE5380C⟩,
   ⟨.step36HH, 36, 1, 4, 0xA4BEEA44⟩,
   ⟨.step37HH, 37, 4, 11, 0x4BDECFA9⟩,
   ⟨.step38HH, 38, 7, 16, 0xF6BB4B60⟩,
   ⟨.step39HH, 39, 10, 23, 0xBEBFBC70⟩,
   ⟨.step40HH, 40, 13, 4, 0x289B7EC6⟩,
   ⟨.step41HH, 41, 0, 11, 0xEAA127FA⟩,
   ⟨.step42HH, 42, 3, 16, 0xD4EF3085⟩,
   ⟨.step43HH, 43, 6, 23, 0x04881D05⟩,
   ⟨.step44HH, 44, 9, 4, 0xD9D4D039⟩,
   ⟨.step45HH, 45, 12, 11, 0xE6DB99E5⟩,
   ⟨.step46HH, 46, 15, 16, 0x1FA27CF8⟩,
   ⟨.step47HH, 47, 2, 23, 0xC4AC5665⟩]

/-- The II entries of the table of R124. -/
def Sys2Proof.rowsII : List RomRow :=
  [⟨.step48II, 48, 0, 6, 0xF4292244⟩,
   ⟨.step49II, 49, 7, 10, 0x432AFF97⟩,
   ⟨.step50II, 50, 14, 15, 0xAB9423A7⟩,
   ⟨.step51II, 51, 5, 21, 0xFC93A039⟩,
   ⟨.step52II, 52, 12, 6, 0x655B59C3⟩,
   ⟨.step53II, 53, 3, 10, 0x8F0CCC92⟩,
   ⟨.step54II, 54, 10, 15, 0xFFEFF47D⟩,
   ⟨.step55II, 55, 1, 21, 0x85845DD1⟩,
   ⟨.step56II, 56, 8, 6, 0x6FA87E4F⟩,
   ⟨.step57II, 57, 15, 10, 0xFE2CE6E0⟩,
   ⟨.step58II, 58, 6, 15, 0xA3014314⟩,
   ⟨.step59II, 59, 13, 21, 0x4E0811A1⟩,
   ⟨.step60II, 60, 4, 6, 0xF7537E82⟩,
   ⟨.step61II, 61, 11, 10, 0xBD3AF235⟩,
   ⟨.step62II, 62, 2, 15, 0x2AD7D2BB⟩,
   ⟨.step63II, 63, 9, 21, 0xEB86D391⟩]

/-- The state after a step of the table's row `e` with round function `f` (R120 to R123): the working registers by the
pseudocode, with `M[g]` the little-endian word of four cells of BUF (R111); `pc + 1` (R23); nothing else. -/
def Sys2Proof.RomRow.result (f : Word → Word → Word → Word) (e : RomRow) (s : State) : State :=
  let m : Word := Memory.read s.buf (4 * e.g + 3) ++ Memory.read s.buf (4 * e.g + 2) ++
    Memory.read s.buf (4 * e.g + 1) ++ Memory.read s.buf (4 * e.g)
  let t := s.x.a + f s.x.b s.x.c s.x.d + e.k + m
  { s with x := ⟨s.x.d, s.x.b + t.rotateLeft e.s, s.x.b, s.x.c⟩, pc := s.pc + 1 }

/-- What DIGEST leaves everywhere but in H, x, CNT and BUF (R106): LEN = 0, FIN = 1, the error bits, the host's list and the
taken responses as before, the sequencer at rest, answer 0x0000. -/
abbrev Sys2Proof.DigestRest (s t : State) : Prop :=
  t.len = 0 ∧ t.fin = true ∧ t.errIS = s.errIS ∧ t.errIC = s.errIC ∧ t.rsp = some 0x0000 ∧ t.pc = 0 ∧ t.seq = .idle ∧
    t.host = s.host ∧ t.taken = s.taken

/-! ## Encoding -/

/-- Words written out from R65 and R67 (and the ROM of R124) decode to what they stand for. -/
def Obligations.WrittenWordsDecode : Prop :=
  decode (.command 0b0000000000000000) = .ok .nop ∧ decode (.command 0b0001000000000000) = .ok .init ∧
  decode (.command 0b0010000001100001) = .ok (.update 0x61) ∧ decode (.command 0b0011000000000000) = .ok .digest ∧
  decode (.command 0b0100000000011111) = .ok (.rdhex 31) ∧ decode (.command 0b0101000000001111) = .ok (.rddig 15) ∧
  decode (.command 0b0110000000000000) = .ok .rdstat ∧ decode (.command 0b0100000000100000) = .error .operandBits ∧
  decode (.command 0b0010000100000000) = .error .reservedBits ∧
  decode (.command 0b0111000000000000) = .error .reservedOpcode ∧
  decode (.rom 0b000000) = .ok .step00FF ∧ decode (.rom 0b010001) = .ok .step17GG ∧
  decode (.rom 0b101110) = .ok .step46HH ∧ decode (.rom 0b111111) = .ok .step63II

/-- Decoding an encoded well-formed instruction gives it back, with every operand at every value: no bit is dropped. -/
def Obligations.DecodeOfEncode : Prop := ∀ i : Instr, i.wf → decode (encode i) = .ok i

/-- What decodes is well formed and encodes back to the same code: no two codes mean one instruction. -/
def Obligations.EncodeOfDecode : Prop := ∀ (c : Code) (i : Instr), decode c = .ok i → i.wf ∧ encode i = c

/-- R65: a word selects a command exactly when it matches the command's pattern under its mask, with the operand in the low
bits; the patterns are disjoint; a word that matches none is illegal. -/
def Obligations.PatternsSelectCommands : Prop :=
  ∀ w : PortWord,
    (decodeCommand w = .ok .nop ↔ w &&& 0xFFFF = 0x0000) ∧
    (decodeCommand w = .ok .init ↔ w &&& 0xFFFF = 0x1000) ∧
    (∀ b, decodeCommand w = .ok (.update b) ↔ w &&& 0xFF00 = 0x2000 ∧ b = w.extractLsb' 0 8) ∧
    (decodeCommand w = .ok .digest ↔ w &&& 0xFFFF = 0x3000) ∧
    (∀ k : BitVec 5, decodeCommand w = .ok (.rdhex (k.setWidth 8)) ↔ w &&& 0xFFE0 = 0x4000 ∧ k = w.extractLsb' 0 5) ∧
    (∀ k : BitVec 4, decodeCommand w = .ok (.rddig (k.setWidth 8)) ↔ w &&& 0xFFF0 = 0x5000 ∧ k = w.extractLsb' 0 4) ∧
    (decodeCommand w = .ok .rdstat ↔ w &&& 0xFFFF = 0x6000) ∧
    ([((0xFFFF : PortWord), (0x0000 : PortWord)), (0xFFFF, 0x1000), (0xFF00, 0x2000), (0xFFFF, 0x3000), (0xFFE0, 0x4000),
      (0xFFF0, 0x5000), (0xFFFF, 0x6000)].Pairwise (fun p q => ¬(w &&& p.1 = p.2 ∧ w &&& q.1 = q.2))) ∧
    ((∃ e, decodeCommand w = .error e) ↔
      w &&& 0xFFFF ≠ 0x0000 ∧ w &&& 0xFFFF ≠ 0x1000 ∧ w &&& 0xFF00 ≠ 0x2000 ∧ w &&& 0xFFFF ≠ 0x3000 ∧
      w &&& 0xFFE0 ≠ 0x4000 ∧ w &&& 0xFFF0 ≠ 0x5000 ∧ w &&& 0xFFFF ≠ 0x6000)

/-- R67's three classes of illegal words, each by its own name: (a) a reserved opcode, (b) non-zero reserved bits, (c) operand
bits the command does not have. -/
def Obligations.IllegalWordClasses : Prop :=
  ∀ w : PortWord,
    (decodeCommand w = .error .reservedOpcode ↔ 7 ≤ (w.extractLsb' 12 4).toNat) ∧
    (decodeCommand w = .error .reservedBits ↔ (w.extractLsb' 12 4).toNat ≤ 6 ∧ w.extractLsb' 8 4 ≠ 0) ∧
    (decodeCommand w = .error .operandBits ↔
      w.extractLsb' 8 4 = 0 ∧
      ((w.extractLsb' 12 4 ∈ [0, 1, 3, 6] ∧ w.extractLsb' 0 8 ≠ 0) ∨
       (w.extractLsb' 12 4 = 4 ∧ w.extractLsb' 5 3 ≠ 0) ∨ (w.extractLsb' 12 4 = 5 ∧ w.extractLsb' 4 4 ≠ 0)))

/-! ## The block transformer -/

/-- The fields of each ROM entry are the formulas' values: the round function `i div 16` (R70), the word index of R117, each
index used exactly once in each round, the rotation amount of R118, between 4 and 23. -/
def Obligations.RomFieldsFollowFormulas : Prop :=
  (∀ i : BitVec 6,
    (rom i).fn = [RoundFn.F, .G, .H, .I].getD (i.toNat / 16) .F ∧ (rom i).g.toNat = Md5.index i.toNat ∧
    (srom i).toNat = Md5.rotation i.toNat ∧ 4 ≤ (srom i).toNat ∧ (srom i).toNat ≤ 23) ∧
  (∀ (r : Fin 4) (g : Fin 16), ((List.range 16).filter (fun j => Md5.index (16 * r.val + j) = g.val)).length = 1)

/-- R113 to R116, bit by bit: F selects y or z by x, G selects x or y by z (and is F with its operands turned), H is the
parity, I is y xor (x or not z). -/
def Obligations.RoundFunctionsBitwise : Prop :=
  ∀ (x y z : Word) (j : Nat), j < 32 →
    (fnF x y z).getLsbD j = (if x.getLsbD j then y.getLsbD j else z.getLsbD j) ∧
    (fnG x y z).getLsbD j = (if z.getLsbD j then x.getLsbD j else y.getLsbD j) ∧
    fnG x y z = fnF z x y ∧
    (fnH x y z).getLsbD j = (x.getLsbD j ^^ (y.getLsbD j ^^ z.getLsbD j)) ∧
    (fnI x y z).getLsbD j = (y.getLsbD j ^^ (x.getLsbD j || !z.getLsbD j))

/-- R120, for step00FF to step15FF: each FF entry stands at its index of the ROM, with the fields the table prints,
and, in every state, its execution answers the next state of the pseudocode with those g, s and K; nothing but `x` and `pc` changes. -/
def Obligations.FFStepsRunAsSpecified : Prop :=
  ∀ e ∈ rowsFF, encode e.instr = .rom e.i ∧ rom e.i = ⟨.F, BitVec.ofNat 4 e.g, BitVec.ofNat 5 e.s, e.k⟩ ∧
    ∀ s : State, exec e.instr s = .next (e.result (fun x y z => (x &&& y) ||| (~~~x &&& z)) s)

/-- R121, for step16GG to step31GG: each GG entry stands at its index of the ROM, with the fields the table prints,
and, in every state, its execution answers the next state of the pseudocode with those g, s and K; nothing but `x` and `pc` changes. -/
def Obligations.GGStepsRunAsSpecified : Prop :=
  ∀ e ∈ rowsGG, encode e.instr = .rom e.i ∧ rom e.i = ⟨.G, BitVec.ofNat 4 e.g, BitVec.ofNat 5 e.s, e.k⟩ ∧
    ∀ s : State, exec e.instr s = .next (e.result (fun x y z => (x &&& z) ||| (y &&& ~~~z)) s)

/-- R122, for step32HH to step47HH: each HH entry stands at its index of the ROM, with the fields the table prints,
and, in every state, its execution answers the next state of the pseudocode with those g, s and K; nothing but `x` and `pc` changes. -/
def Obligations.HHStepsRunAsSpecified : Prop :=
  ∀ e ∈ rowsHH, encode e.instr = .rom e.i ∧ rom e.i = ⟨.H, BitVec.ofNat 4 e.g, BitVec.ofNat 5 e.s, e.k⟩ ∧
    ∀ s : State, exec e.instr s = .next (e.result (fun x y z => x ^^^ y ^^^ z) s)

/-- R123, for step48II to step63II: each II entry stands at its index of the ROM, with the fields the table prints,
and, in every state, its execution answers the next state of the pseudocode with those g, s and K; nothing but `x` and `pc` changes. -/
def Obligations.IIStepsRunAsSpecified : Prop :=
  ∀ e ∈ rowsII, encode e.instr = .rom e.i ∧ rom e.i = ⟨.I, BitVec.ofNat 4 e.g, BitVec.ofNat 5 e.s, e.k⟩ ∧
    ∀ s : State, exec e.instr s = .next (e.result (fun x y z => y ^^^ (x ||| ~~~z)) s)

/-- R128: for a fixed block each step is undone by the rule's formula, so it is a bijection on `(a, b, c, d)`, and so are the
64 steps together. -/
def Obligations.StepsAreBijective : Prop :=
  (∀ (i : BitVec 6) (s : State),
    s.x.b = (romStep i s).x.c ∧ s.x.c = (romStep i s).x.d ∧ s.x.d = (romStep i s).x.a ∧
    s.x.a = rotl32 ((romStep i s).x.b - (romStep i s).x.c) (32 - (srom i).toNat)
      - Md5.fn i.toNat (romStep i s).x.c (romStep i s).x.d (romStep i s).x.a - krom i - msgWord s.buf (rom i).g) ∧
  (∀ (i : BitVec 6) (s : State), Function.Bijective (fun q : Quad => (romStep i { s with x := q }).x)) ∧
  (∀ s : State, Function.Bijective (fun q : Quad => (runSteps 64 { s with x := q, pc := 0 }).x))

/-- R111 (and R43 (1), R46): a message word is its four cells, little-endian. -/
def Obligations.MessageWordIsLittleEndian : Prop :=
  ∀ (s : State) (j : BitVec 4),
    (msgWord s.buf j).toNat =
      (Memory.read s.buf (4 * j.toNat)).toNat + 2 ^ 8 * (Memory.read s.buf (4 * j.toNat + 1)).toNat +
      2 ^ 16 * (Memory.read s.buf (4 * j.toNat + 2)).toNat + 2 ^ 24 * (Memory.read s.buf (4 * j.toNat + 3)).toNat

/-- R110, R112, R125, R126: from the start of a `Transform`, with no reset coming next, `n ≤ 63` machine steps of the ROM rows
stand at `pc = n` inside it with `x` as the first `n` steps of the formulas give it (R23); 64 give exactly what the atomic
`Transform` of the commands gives: the fold of the 64 steps between the copy of H and the add-in, H, `x`, `pc` and the
model's own `seq` (assumption log 5) written, and nothing else (CNT, LEN, BUF, FIN, the error bits as before). -/
def Obligations.TransformIsItsSixtyFourSteps : Prop :=
  ∀ s : State, (∀ rest, s.host ≠ .reset :: rest) →
    (∀ n ≤ 63, ∃ t, Host.Core.run Sys2Proof.core n (startTransform s) = .next t ∧ t.pc.toNat = n ∧ t.seq = .running ∧
      t.x = Md5.registers n s.h (bufBytes s.buf) ∧ t.h = s.h) ∧
    Host.Core.run Sys2Proof.core 64 (startTransform s) = .next (transform s) ∧
    transform s = { s with
      h := Md5.compress s.h (bufBytes s.buf), x := Md5.registers 64 s.h (bufBytes s.buf), pc := 0, seq := .idle }

/-! ## The commands -/

/-- R81: NOP is the word 0x0000, and a word with that opcode and any other bit set is illegal; in every state it answers 0x0000 and changes nothing else. -/
def Obligations.NopAnswersOnly : Prop :=
  (∀ w : PortWord, decodeCommand w = .ok .nop ↔ w = 0x0000) ∧
  (∀ w : PortWord, w.extractLsb' 12 4 = 0 → w ≠ 0x0000 → ∃ e, decodeCommand w = .error e) ∧
  ∀ s : State, exec .nop s = .next { s with rsp := some 0x0000 }

/-- R82: INIT is the word 0x1000 and no other. It sets H to the initial constants, CNT, LEN and FIN to 0, answers 0x0000 and changes nothing else (BUF and the error
bits stay), in every state, and no other instruction leaves the finalized state. -/
def Obligations.InitResetsMessage : Prop :=
  (∀ w : PortWord, decodeCommand w = .ok .init ↔ w = 0x1000) ∧
  (∀ s : State, exec .init s =
    .next { s with
      h := ⟨0x67452301, 0xEFCDAB89, 0x98BADCFE, 0x10325476⟩, cnt := 0, len := 0, fin := false, rsp := some 0x0000 }) ∧
  (∀ (i : Instr) (s t : State), s.fin = true → exec i s = .next t → t.fin = false → i = .init)

/-- R88: RDSTAT is the word 0x6000 and no other. It answers STATUS, with ERR_IC, ERR_IS, FIN in bits 2, 1, 0 and bits 7 to 3 zero, and changes nothing else. -/
def Obligations.RdstatReadsStatus : Prop :=
  (∀ w : PortWord, decodeCommand w = .ok .rdstat ↔ w = 0x6000) ∧
  ∀ s : State, exec .rdstat s =
    .next { s with rsp := some (BitVec.ofNat 16 (4 * s.errIC.toNat + 2 * s.errIS.toNat + s.fin.toNat)) }

/-- R83 and R84 for a byte that does not fill the block: it is stored at LEN, CNT grows by 8 modulo 2^64, LEN by 1, the answer
is 0x0000, nothing else changes. -/
def Obligations.UpdateAbsorbsByte : Prop :=
  ∀ (b : Byte) (s : State), s.fin = false → s.len ≠ 63 → exec (.update b) s =
    .next { s with
      buf := Memory.write s.buf s.len.toNat b, cnt := s.cnt + 8, len := s.len + 1, rsp := some 0x0000 }

/-- R83 and R84 for the byte that fills the block: H becomes `Compress` of the 63 pending bytes and this one, LEN 0. What `x`
and BUF hold afterwards is the pseudocode's; the spec calls both unspecified, no rule reads them (assumption log 13). -/
def Obligations.UpdateTransformsFullBlock : Prop :=
  ∀ (b : Byte) (s : State), s.fin = false → s.len = 63 → exec (.update b) s =
    .next { s with
      h := Md5.compress s.h (pendingBytes s ++ [b]), x := Md5.registers 64 s.h (pendingBytes s ++ [b]), pc := 0, seq := .idle,
      buf := Memory.write s.buf 63 b, cnt := s.cnt + 8, len := 0, rsp := some 0x0000 }

/-- UPDATE stores one byte, at address LEN, and every other cell of BUF reads as before (R84). -/
def Obligations.UpdateStoresOneByte : Prop :=
  ∀ (b : Byte) (s : State), s.fin = false → ∃ t, exec (.update b) s = .next t ∧
    Memory.read t.buf s.len.toNat = b ∧ ∀ a, a ≠ s.len.toNat → Memory.read t.buf a = Memory.read s.buf a

/-- R85, R100 to R106 with at most 55 pending bytes: one block of the pending bytes, 0x80, zeros up to 56 and the bit count
from before the padding; H is its `Compress`, CNT grows by the bits absorbed, BUF holds that block (BUF and `x` after it:
assumption log 13). -/
def Obligations.DigestClosesOneBlock : Prop :=
  ∀ s : State, s.fin = false → s.len.toNat ≤ 55 →
    let block := pendingBytes s ++ 0x80 :: List.replicate (55 - s.len.toNat) 0x00 ++ Md5.le64 s.cnt
    ∃ t, exec .digest s = .next t ∧
      t.h = Md5.compress s.h block ∧ t.x = Md5.registers 64 s.h block ∧
      t.cnt = s.cnt + BitVec.ofNat 64 (8 * (64 - s.len.toNat)) ∧
      (∀ a < 64, Memory.read t.buf a = block.getD a 0) ∧ (∀ a, 64 ≤ a → Memory.read t.buf a = Memory.read s.buf a) ∧
      DigestRest s t

/-- R85, R100 to R106 with 56 to 63 pending bytes: two blocks, the second of 56 zeros and the bit count from before the
padding (BUF and `x` after it: assumption log 13). -/
def Obligations.DigestClosesTwoBlocks : Prop :=
  ∀ s : State, s.fin = false → 56 ≤ s.len.toNat →
    let block0 := pendingBytes s ++ 0x80 :: List.replicate (63 - s.len.toNat) 0x00
    let block1 := List.replicate 56 0x00 ++ Md5.le64 s.cnt
    ∃ t, exec .digest s = .next t ∧
      t.h = Md5.compress (Md5.compress s.h block0) block1 ∧ t.x = Md5.registers 64 (Md5.compress s.h block0) block1 ∧
      t.cnt = s.cnt + BitVec.ofNat 64 (8 * (128 - s.len.toNat)) ∧
      (∀ a < 64, Memory.read t.buf a = block1.getD a 0) ∧ (∀ a, 64 ≤ a → Memory.read t.buf a = Memory.read s.buf a) ∧
      DigestRest s t

/-- R100: the padding length by cases on `n = LEN`, 1 to 64 bytes, and the total is 56 modulo 64. -/
def Obligations.PaddingLengthByResidue : Prop :=
  ∀ n : BitVec 6,
    (n.toNat ≤ 55 → padLength n = 56 - n.toNat) ∧ (56 ≤ n.toNat → padLength n = 120 - n.toNat) ∧
    1 ≤ padLength n ∧ padLength n ≤ 64 ∧ (n.toNat + padLength n) % 64 = 56

/-- R86 and R132: the word `0x4000 | k` is RDHEX k, for every k from 0 to 31, and a larger operand is no word. With FIN = 1 it answers character k of the digest
in H and changes nothing else, the character one of 0x30 to 0x39 or 0x61 to 0x66; with FIN = 0 it sets ERR_IS, answers 0x0100
and changes nothing else. -/
def Obligations.RdhexReadsCharacter : Prop :=
  (∀ imm8 : Byte, 32 ≤ imm8.toNat → ∃ e, decodeCommand (0x40#8 ++ imm8) = .error e) ∧
  ∀ (k : BitVec 5) (s : State), decodeCommand (0x4000 ||| k.setWidth 16) = .ok (.rdhex (k.setWidth 8)) ∧
    (s.fin = true → exec (.rdhex (k.setWidth 8)) s =
      .next { s with rsp := some (0x00#8 ++ (Md5.hexString s.h).getD k.toNat 0) }) ∧
    (s.fin = false → exec (.rdhex (k.setWidth 8)) s = .next { s with errIS := true, rsp := some 0x0100 }) ∧
    (let c := ((Md5.hexString s.h).getD k.toNat 0).toNat; (0x30 ≤ c ∧ c ≤ 0x39) ∨ (0x61 ≤ c ∧ c ≤ 0x66))

/-- R87 and R130: the word `0x5000 | k` is RDDIG k, for every k from 0 to 15, and a larger operand is no word. With FIN = 1 it answers byte k of the digest in H
and changes nothing else; with FIN = 0 it sets ERR_IS, answers 0x0100 and changes nothing else. Characters 2k and 2k+1 of the
hex string are the digits of byte k, the high nibble's first. -/
def Obligations.RddigReadsByte : Prop :=
  (∀ imm8 : Byte, 16 ≤ imm8.toNat → ∃ e, decodeCommand (0x50#8 ++ imm8) = .error e) ∧
  ∀ (k : BitVec 4) (s : State), decodeCommand (0x5000 ||| k.setWidth 16) = .ok (.rddig (k.setWidth 8)) ∧
    (s.fin = true → exec (.rddig (k.setWidth 8)) s =
      .next { s with rsp := some (0x00#8 ++ (Md5.digestBytes s.h).getD k.toNat 0) }) ∧
    (s.fin = false → exec (.rddig (k.setWidth 8)) s = .next { s with errIS := true, rsp := some 0x0100 }) ∧
    (let b := (Md5.digestBytes s.h).getD k.toNat 0
     (Md5.hexString s.h).getD (2 * k.toNat) 0 = Md5.asciiDigits.getD (b.extractLsb' 4 4).toNat 0 ∧
     (Md5.hexString s.h).getD (2 * k.toNat + 1) 0 = Md5.asciiDigits.getD (b.extractLsb' 0 4).toNat 0)

/-- R133's two examples, read out by RDHEX in full: the digests of the empty message and of "abc". -/
def Obligations.SerializerExamples : Prop :=
  (List.range 32).map (fun k => hex ⟨0xD98C1DD4, 0x04B2008F, 0x980980E9, 0x7E42F8EC⟩ (BitVec.ofNat 5 k)) =
    "d41d8cd98f00b204e9800998ecf8427e".toList.map (fun c => BitVec.ofNat 8 c.toNat) ∧
  (List.range 32).map (fun k => hex ⟨0x98500190, 0xB04FD23C, 0x7D3F96D6, 0x727FE128⟩ (BitVec.ofNat 5 k)) =
    "900150983cd24fb0d6963f7d28e17f72".toList.map (fun c => BitVec.ofNat 8 c.toNat)

/-! ## Errors -/

/-- R141 and R143: UPDATE and DIGEST with FIN = 1, RDHEX k and RDDIG k with FIN = 0, set ERR_IS, answer 0x0100 and change
nothing else. -/
def Obligations.InvalidStateIsRefused : Prop :=
  (∀ (b : Byte) (s : State), s.fin = true →
    exec (.update b) s = .next { s with errIS := true, rsp := some 0x0100 }) ∧
  (∀ s : State, s.fin = true → exec .digest s = .next { s with errIS := true, rsp := some 0x0100 }) ∧
  (∀ (k : BitVec 5) (s : State), s.fin = false →
    exec (.rdhex (k.setWidth 8)) s = .next { s with errIS := true, rsp := some 0x0100 }) ∧
  (∀ (k : BitVec 4) (s : State), s.fin = false →
    exec (.rddig (k.setWidth 8)) s = .next { s with errIS := true, rsp := some 0x0100 })

/-- The model's choice (assumption log 12): a read command whose operand has bits it must not have (no word decodes to it)
ends as an illegal word does. -/
def Obligations.IllFormedOperandIsIllegal : Prop :=
  ∀ (imm8 : Byte) (s : State),
    ((Instr.rdhex imm8).wf = false → exec (.rdhex imm8) s = .next { s with errIC := true, rsp := some 0x0200 }) ∧
    ((Instr.rddig imm8).wf = false → exec (.rddig imm8) s = .next { s with errIC := true, rsp := some 0x0200 })

/-- R142, R144, R67: an accepted illegal word sets ERR_IC, answers 0x0200 and changes nothing else, whatever FIN and the rest
of the state are. -/
def Obligations.IllegalWordIsAnswered : Prop :=
  ∀ (s : State) (w : PortWord) (e : Illegal) (rest : List HostAction),
    s.host = .command w :: rest → s.seq = .idle → s.rsp = none → decodeCommand w = .error e →
    step s = .next { s with host := rest, errIC := true, rsp := some 0x0200 }

/-- R89: which command ends with InvalidState in which state and which is performed (return code 0), and that with FIN = 1
nothing but INIT changes H, CNT, LEN, BUF or FIN. -/
def Obligations.LegalityTable : Prop :=
  ∀ (i : Instr) (s : State), i.isCommand → i.wf → ∃ t r, exec i s = .next t ∧ t.rsp = some r ∧
    (r ≠ 0x0100 → r.extractLsb' 8 8 = 0) ∧
    (r = 0x0100 ↔
      (s.fin = true ∧ ((∃ b, i = .update b) ∨ i = .digest)) ∨
      (s.fin = false ∧ ((∃ k, i = .rdhex k) ∨ ∃ k, i = .rddig k))) ∧
    (s.fin = true → i ≠ .init → t.h = s.h ∧ t.cnt = s.cnt ∧ t.len = s.len ∧ t.buf = s.buf ∧ t.fin = true)

/-- R143: an error is precise. A host command that answers 0x0100 or 0x0200 has changed nothing but its sticky bit and the
response. -/
def Obligations.ErrorsArePrecise : Prop :=
  ∀ (i : Instr) (s : State), i.isCommand → ∃ t, exec i s = .next t ∧
    (t.rsp = some 0x0100 → t = { s with errIS := true, rsp := some 0x0100 }) ∧
    (t.rsp = some 0x0200 → t = { s with errIC := true, rsp := some 0x0200 }) ∧
    (t.rsp ≠ some 0x0100 → t.errIS = s.errIS) ∧ (t.rsp ≠ some 0x0200 → t.errIC = s.errIC)

/-- R28, R146: a sticky bit that is set stays set in every step in which the host does not assert reset. -/
def Obligations.StickyBitsStay : Prop :=
  ∀ s : State, (∀ rest, s.host ≠ .reset :: rest) → ∃ t, step s = .next t ∧
    (s.errIS = true → t.errIS = true) ∧ (s.errIC = true → t.errIC = true)

/-! ## The whole machine -/

/-- Who writes what, over all instructions: H only INIT and the add-in of a full block (R21); CNT and LEN only INIT and an
absorption (R24, R26); BUF only an absorption (R25, R41); FIN only INIT and DIGEST (R27); `x` and `pc` only a Transform or a
ROM step (R22, R23); the host's own list and the taken responses no instruction. -/
def Obligations.OnlyWriters : Prop :=
  ∀ (i : Instr) (s : State), ∃ t, exec i s = .next t ∧
    (t.h ≠ s.h → i = .init ∨ (s.fin = false ∧ ((∃ b, i = .update b ∧ s.len = 63) ∨ i = .digest))) ∧
    (t.cnt ≠ s.cnt ∨ t.len ≠ s.len → i = .init ∨ (s.fin = false ∧ ((∃ b, i = .update b) ∨ i = .digest))) ∧
    (t.buf ≠ s.buf → s.fin = false ∧ ((∃ b, i = .update b) ∨ i = .digest)) ∧
    (t.fin ≠ s.fin → i = .init ∨ i = .digest) ∧
    (t.x ≠ s.x ∨ t.pc ≠ s.pc →
      i.isCommand = false ∨ (s.fin = false ∧ ((∃ b, i = .update b ∧ s.len = 63) ∨ i = .digest))) ∧
    t.host = s.host ∧ t.taken = s.taken

/-- R62 and R63: every host command, in every state, answers exactly one response word, of the shape of R63: bits 15 to 10
zero, return code 0, 1 or 2, data 0x00 unless the code is 0 and the command a read. -/
def Obligations.ResponseShape : Prop :=
  ∀ (i : Instr) (s : State), i.isCommand → ∃ t r, exec i s = .next t ∧ t.rsp = some r ∧ ResponseLegal r ∧
    r.extractLsb' 10 6 = 0 ∧ r.extractLsb' 8 2 ≠ 3 ∧
    (r.extractLsb' 0 8 ≠ 0 → r.extractLsb' 8 2 = 0 ∧ ((∃ k, i = .rdhex k) ∨ (∃ k, i = .rddig k) ∨ i = .rdstat))

/-- When an accepted word decodes to `i`, the step is exec of `i` at the state with the word taken off the host's list
(R61, R80). -/
def Obligations.StepRunsAcceptedCommand : Prop :=
  ∀ (s : State) (w : PortWord) (i : Instr) (rest : List HostAction),
    s.host = .command w :: rest → s.seq = .idle → s.rsp = none → decodeCommand w = .ok i →
    step s = exec i { s with host := rest }

/-- Inside a Transform, with no reset coming, the step is exec of the ROM entry at `pc`; after entry 63 the step adds `x` into
H, sets `pc` to 0 and leaves the Transform (R23, R42, R110, R125). -/
def Obligations.StepRunsRomEntry : Prop :=
  ∀ s : State, s.seq = .running → (∀ rest, s.host ≠ .reset :: rest) →
    (s.pc ≠ 63 → step s = exec (decodeStep s.pc) s) ∧
    (s.pc = 63 → ∃ t, exec (decodeStep s.pc) s = .next t ∧ step s = .next { t with
      h := ⟨t.h.a + t.x.a, t.h.b + t.x.b, t.h.c + t.x.c, t.h.d + t.x.d⟩, pc := 0, seq := .idle })

/-- The handshake of R61 and R62 between commands: with no action of the host the engine waits; a command presented while a
response waits is not accepted and nothing changes; `take` moves the waiting response to the host, and with none waiting
(the model's choice, assumption log 8) transfers nothing. -/
def Obligations.HandshakeSteps : Prop :=
  ∀ s : State, s.seq = .idle →
    (s.host = [] → step s = .next s) ∧
    (∀ w rest r, s.host = .command w :: rest → s.rsp = some r → step s = .next s) ∧
    (∀ rest r, s.host = .take :: rest → s.rsp = some r →
      step s = .next { s with host := rest, rsp := none, taken := s.taken ++ [r] }) ∧
    (∀ rest, s.host = .take :: rest → s.rsp = none → step s = .next { s with host := rest })

/-- R160 and R163: reset gives the reset state whatever the engine was doing, and a response not yet taken is lost; what the
host does next and has taken before is the host's. That BUF and `x` go to State.reset's values is the model's choice
(assumption log 6): the spec leaves them unspecified. -/
def Obligations.ResetFromAnyState : Prop :=
  ∀ (s : State) (rest : List HostAction), s.host = .reset :: rest →
    step s = .next { State.reset with host := rest, taken := s.taken }

/-- R161: the values after hard reset, STATUS = 0x00, no command in flight, `cmd_ready = 1`, `rsp_valid = 0`; and the engine
waits for its first command. BUF and `x` are left out: the spec gives them no value. -/
def Obligations.ResetValues : Prop :=
  State.reset.h = ⟨0x67452301, 0xEFCDAB89, 0x98BADCFE, 0x10325476⟩ ∧ State.reset.cnt = 0 ∧ State.reset.len = 0 ∧
  State.reset.fin = false ∧ State.reset.errIS = false ∧ State.reset.errIC = false ∧ statusReg State.reset = 0 ∧
  State.reset.pc = 0 ∧ cmdReady State.reset = true ∧ State.reset.rsp = none ∧ step State.reset = .next State.reset

/-- R168: no hang, no stuck state. Every step of every state goes on: none faults, none is refused. -/
def Obligations.EveryStepGoesOn : Prop := ∀ s : State, ∃ t, step s = .next t

/-- The invariants of R33 hold at reset. -/
def Obligations.ResetIsBetweenCommands : Prop := BetweenCommands State.reset

/-- R33: every step from a state between commands leads to a state between commands: `pc = 0`, LEN = CNT[8:3] and
CNT[2:0] = 0, with FIN = 1 an empty buffer and CNT a multiple of 512, BUF canonical, a waiting response legal. -/
def Obligations.StepKeepsBetweenCommands : Prop :=
  ∀ s t : State, BetweenCommands s → step s = .next t → BetweenCommands t

/-- BUF keeps its canonical form in every step of every state, inside a Transform too. -/
def Obligations.StepKeepsBufCanonical : Prop :=
  ∀ s t : State, Memory.wf s.buf → step s = .next t → Memory.wf t.buf

/-- R22, R25, R170: two states between commands that differ only in `x` and in the cells of BUF at index LEN and above answer
alike and stay so: the values the model gives those at reset (assumption logs 3 and 4) show nowhere. -/
def Obligations.UnreadStateNeverShows : Prop :=
  ∀ s t : State, s.seq = .idle → SameToHost s t →
    ∃ s' t', step s = .next s' ∧ step t = .next t' ∧ s'.seq = .idle ∧ SameToHost s' t'

/-- What a host command does does not depend on the response channel, the host's coming actions or the responses taken
(R51, R167): it does the same with any of them, and leaves the last two as they are. -/
def Obligations.CommandsIgnorePorts : Prop :=
  ∀ (i : Instr) (s : State) (r : Option PortWord) (hs : List HostAction) (tk : List PortWord), i.isCommand →
    ∃ t, exec i s = .next t ∧ exec i { s with rsp := r, host := hs, taken := tk } = .next { t with host := hs, taken := tk }

/-- R105 (and R106): from the state INIT or reset leaves, one UPDATE for each byte of any message compresses its complete
blocks, and DIGEST then leaves the MD5 digest of the message, computed by padding it whole and compressing block after block;
the padded length is as the rule says, CNT is 8 times it, LEN 0, FIN 1, and the error bits are as before. -/
def Obligations.MessageIsDigested : Prop :=
  ∀ (m : List Byte) (s : State), s.h = Quad.iv → s.cnt = 0 → s.len = 0 → s.fin = false →
    (∃ t u, feed m s = .next t ∧ t.h = Md5.compressBlocks (m.length / 64) Quad.iv m ∧ exec .digest t = .next u ∧
      u.h = Md5.digest m ∧ u.len = 0 ∧ u.cnt = BitVec.ofNat 64 (8 * (Md5.pad m).length) ∧ u.fin = true ∧
      u.errIS = s.errIS ∧ u.errIC = s.errIC ∧ u.rsp = some 0x0000) ∧
    (m.length % 64 ≤ 55 → (Md5.pad m).length = 64 * (m.length / 64 + 1)) ∧
    (56 ≤ m.length % 64 → (Md5.pad m).length = 64 * (m.length / 64 + 2))

/-- R167: a NOP or an RDSTAT between two parts of a message changes nothing of what follows but the answers, and the message in
two parts is the message. -/
def Obligations.ChunksAndPausesDoNotMatter : Prop :=
  ∀ (m₁ m₂ : List Byte) (i : Instr) (s : State), i = .nop ∨ i = .rdstat → s.fin = false →
    ∃ t t' u v, feed m₁ s = .next t ∧ exec i t = .next t' ∧ feed m₂ t' = .next u ∧ feed (m₁ ++ m₂) s = .next v ∧
      { u with rsp := none } = { v with rsp := none } ∧ feed m₂ t = .next v

/-- R173 with R72 and R133: from any state in which the engine waits, a host that presents the commands of `MD5 m` and takes
each response gets an OK answer to each, and the data of its 32 RDHEX commands is the hex string of the digest of `m`. -/
def Obligations.HostReadsHexDigest : Prop :=
  ∀ (m : List Byte) (s : State), s.seq = .idle → s.rsp = none → s.host = hostScript (md5Words m) →
    ∃ t, Host.Core.run Sys2Proof.core (2 * (m.length + 34)) s = .next t ∧ t.host = [] ∧
      t.taken = s.taken ++ List.replicate (m.length + 2) 0x0000 ++
        (Md5.hexString (Md5.digest m)).map (fun c => 0x00#8 ++ c)

/-- The two known answers of the source: the digests of the empty message and of "abc" (95_test_vectors.md section 1.1). -/
def Obligations.KnownAnswers : Prop :=
  Md5.hexString (Md5.digest []) = "d41d8cd98f00b204e9800998ecf8427e".toList.map (fun c => BitVec.ofNat 8 c.toNat) ∧
  Md5.hexString (Md5.digest [0x61, 0x62, 0x63]) =
    "900150983cd24fb0d6963f7d28e17f72".toList.map (fun c => BitVec.ofNat 8 c.toNat)
end

