-- ==== Sys2Proof/Laws/Memory.lean ====
section
/-! SUPPORT. The laws of BUF: a read after a write, the canonical form, and little-endian words. -/
namespace Sys2Proof.Machine

theorem Memory.read_erase (m : Memory) (a k : Nat) :
    Memory.read (Memory.erase m a) k = if k = a then Memory.unwritten else Memory.read m k := by
  induction m with
  | nil => simp [Memory.erase, Memory.read]
  | cons c m ih =>
    simp only [Memory.erase] at ih ⊢
    by_cases hc : c.1 = a <;> by_cases hk : c.1 = k <;> simp_all [Memory.read]

theorem Memory.read_insert (m : Memory) (a k : Nat) (b : Byte) :
    Memory.read (Memory.insert m a b) k = if k = a then b else Memory.read m k := by
  induction m with
  | nil => simp [Memory.insert, Memory.read, eq_comm]
  | cons c m ih =>
    simp only [Memory.insert]
    split
    · simp only [Memory.read, eq_comm]
    · split
      · next h => simp only [Memory.read, ← h]; by_cases hk : a = k <;> simp [hk, eq_comm]
      · next h =>
        simp only [Memory.read, ih]
        by_cases hk : k = a
        · simp [hk, Ne.symm h]
        · simp [hk]

/-- A read after a write gives the byte written, and every other address reads as before. -/
theorem Memory.read_write (m : Memory) (a k : Nat) (b : Byte) :
    Memory.read (Memory.write m a b) k = if k = a then b else Memory.read m k := by
  unfold Memory.write
  split
  · next h => rw [Memory.read_erase, h]
  · exact Memory.read_insert m a k b

theorem Memory.mem_insert {m : Memory} {a : Nat} {b : Byte} {c : Host.Cell}
    (h : c ∈ Memory.insert m a b) : c = (a, b) ∨ c ∈ m := by
  induction m with
  | nil => simpa [Memory.insert] using h
  | cons e m ih =>
    simp only [Memory.insert] at h
    split at h
    · simpa using h
    · split at h
      · simp only [List.mem_cons] at h ⊢; tauto
      · simp only [List.mem_cons] at h ⊢
        rcases h with h | h
        · exact .inr (.inl h)
        · rcases ih h with h | h <;> tauto

theorem Memory.insert_rising {m : Memory} (a : Nat) (b : Byte)
    (h : m.Pairwise (fun c e => c.1 < e.1)) : (Memory.insert m a b).Pairwise (fun c e => c.1 < e.1) := by
  induction m with
  | nil => simp [Memory.insert]
  | cons c m ih =>
    obtain ⟨hc, hm⟩ := List.pairwise_cons.mp h
    simp only [Memory.insert]
    split
    · next hlt =>
      refine List.pairwise_cons.mpr ⟨fun e he => ?_, h⟩
      rcases List.mem_cons.mp he with rfl | he
      · exact hlt
      · exact lt_trans hlt (hc e he)
    · split
      · next heq => exact List.pairwise_cons.mpr ⟨fun e he => by simpa [heq] using hc e he, hm⟩
      · next hlt hne =>
        refine List.pairwise_cons.mpr ⟨fun e he => ?_, ih hm⟩
        rcases Memory.mem_insert he with rfl | he
        · simp only; omega
        · exact hc e he

/-- Every write to an address of BUF keeps the canonical form. -/
theorem Memory.wf_write {m : Memory} (a : Nat) (b : Byte) (ha : a < 64) (h : Memory.wf m) :
    Memory.wf (Memory.write m a b) := by
  obtain ⟨hr, hm⟩ := h
  unfold Memory.write
  split
  · exact ⟨hr.sublist List.filter_sublist, fun c hc => hm c (List.mem_filter.mp hc).1⟩
  · next hb =>
    refine ⟨Memory.insert_rising a b hr, fun c hc => ?_⟩
    rcases Memory.mem_insert hc with rfl | hc
    · exact ⟨hb, ha⟩
    · exact hm c hc

/-- The memory of the reset state is in canonical form. -/
theorem Memory.wf_reset : Memory.wf State.reset.buf := by decide

theorem Memory.readLE_four (m : Memory) (a : Nat) :
    Memory.readLE m a 4 = (Memory.read m a).toNat + 2 ^ 8 * (Memory.read m (a + 1)).toNat +
      2 ^ 16 * (Memory.read m (a + 2)).toNat + 2 ^ 24 * (Memory.read m (a + 3)).toNat := by
  simp only [Memory.readLE, Nat.add_assoc, Nat.reduceAdd]
  omega

theorem bytes_append_toNat (b3 b2 b1 b0 : Byte) :
    (b3 ++ b2 ++ b1 ++ b0 : BitVec 32).toNat = b0.toNat + 2 ^ 8 * b1.toNat + 2 ^ 16 * b2.toNat + 2 ^ 24 * b3.toNat := by
  have h0 := b0.isLt; have h1 := b1.isLt; have h2 := b2.isLt; have h3 := b3.isLt
  simp only [BitVec.toNat_append]
  rw [← Nat.shiftLeft_add_eq_or_of_lt h2, ← Nat.shiftLeft_add_eq_or_of_lt h1, ← Nat.shiftLeft_add_eq_or_of_lt h0]
  simp only [Nat.shiftLeft_eq]
  omega

/-- A message word is the four bytes of its cells, the highest address on top (R111). -/
theorem msgWord_eq_append (m : Memory) (g : BitVec 4) :
    msgWord m g = Memory.read m (4 * g.toNat + 3) ++ Memory.read m (4 * g.toNat + 2) ++
      Memory.read m (4 * g.toNat + 1) ++ Memory.read m (4 * g.toNat) := by
  apply BitVec.eq_of_toNat_eq
  rw [bytes_append_toNat, msgWord, BitVec.toNat_ofNat, Memory.readLE_four]
  have h0 := (Memory.read m (4 * g.toNat)).isLt
  have h1 := (Memory.read m (4 * g.toNat + 1)).isLt
  have h2 := (Memory.read m (4 * g.toNat + 2)).isLt
  have h3 := (Memory.read m (4 * g.toNat + 3)).isLt
  exact Nat.mod_eq_of_lt (by omega)

end Sys2Proof.Machine
end

