-- ==== Sys2Proof/Laws/State.lean ====
section
/-! SUPPORT. One lemma for each field and each named update of the state: what the field is afterwards. -/
namespace Sys2Proof.Machine

@[simp] theorem respond_h (d : Byte) (s : State) : (respond d s).h = s.h := rfl
@[simp] theorem respond_x (d : Byte) (s : State) : (respond d s).x = s.x := rfl
@[simp] theorem respond_pc (d : Byte) (s : State) : (respond d s).pc = s.pc := rfl
@[simp] theorem respond_cnt (d : Byte) (s : State) : (respond d s).cnt = s.cnt := rfl
@[simp] theorem respond_buf (d : Byte) (s : State) : (respond d s).buf = s.buf := rfl
@[simp] theorem respond_len (d : Byte) (s : State) : (respond d s).len = s.len := rfl
@[simp] theorem respond_fin (d : Byte) (s : State) : (respond d s).fin = s.fin := rfl
@[simp] theorem respond_errIS (d : Byte) (s : State) : (respond d s).errIS = s.errIS := rfl
@[simp] theorem respond_errIC (d : Byte) (s : State) : (respond d s).errIC = s.errIC := rfl
@[simp] theorem respond_rsp (d : Byte) (s : State) : (respond d s).rsp = some (responseWord 0 d) := rfl
@[simp] theorem respond_seq (d : Byte) (s : State) : (respond d s).seq = s.seq := rfl
@[simp] theorem respond_host (d : Byte) (s : State) : (respond d s).host = s.host := rfl
@[simp] theorem respond_taken (d : Byte) (s : State) : (respond d s).taken = s.taken := rfl

@[simp] theorem startTransform_h (s : State) : (startTransform s).h = s.h := rfl
@[simp] theorem startTransform_x (s : State) : (startTransform s).x = s.h := rfl
@[simp] theorem startTransform_pc (s : State) : (startTransform s).pc = 0 := rfl
@[simp] theorem startTransform_cnt (s : State) : (startTransform s).cnt = s.cnt := rfl
@[simp] theorem startTransform_buf (s : State) : (startTransform s).buf = s.buf := rfl
@[simp] theorem startTransform_len (s : State) : (startTransform s).len = s.len := rfl
@[simp] theorem startTransform_fin (s : State) : (startTransform s).fin = s.fin := rfl
@[simp] theorem startTransform_errIS (s : State) : (startTransform s).errIS = s.errIS := rfl
@[simp] theorem startTransform_errIC (s : State) : (startTransform s).errIC = s.errIC := rfl
@[simp] theorem startTransform_rsp (s : State) : (startTransform s).rsp = s.rsp := rfl
@[simp] theorem startTransform_seq (s : State) : (startTransform s).seq = .running := rfl
@[simp] theorem startTransform_host (s : State) : (startTransform s).host = s.host := rfl
@[simp] theorem startTransform_taken (s : State) : (startTransform s).taken = s.taken := rfl

@[simp] theorem finishTransform_h (s : State) : (finishTransform s).h = addQuad s.h s.x := rfl
@[simp] theorem finishTransform_x (s : State) : (finishTransform s).x = s.x := rfl
@[simp] theorem finishTransform_pc (s : State) : (finishTransform s).pc = 0 := rfl
@[simp] theorem finishTransform_cnt (s : State) : (finishTransform s).cnt = s.cnt := rfl
@[simp] theorem finishTransform_buf (s : State) : (finishTransform s).buf = s.buf := rfl
@[simp] theorem finishTransform_len (s : State) : (finishTransform s).len = s.len := rfl
@[simp] theorem finishTransform_fin (s : State) : (finishTransform s).fin = s.fin := rfl
@[simp] theorem finishTransform_errIS (s : State) : (finishTransform s).errIS = s.errIS := rfl
@[simp] theorem finishTransform_errIC (s : State) : (finishTransform s).errIC = s.errIC := rfl
@[simp] theorem finishTransform_rsp (s : State) : (finishTransform s).rsp = s.rsp := rfl
@[simp] theorem finishTransform_seq (s : State) : (finishTransform s).seq = .idle := rfl
@[simp] theorem finishTransform_host (s : State) : (finishTransform s).host = s.host := rfl
@[simp] theorem finishTransform_taken (s : State) : (finishTransform s).taken = s.taken := rfl

@[simp] theorem stepWith_h (f : Word → Word → Word → Word) (i : BitVec 6) (s : State) : (stepWith f i s).h = s.h := rfl
@[simp] theorem stepWith_x (f : Word → Word → Word → Word) (i : BitVec 6) (s : State) : (stepWith f i s).x = stepRegs f (krom i) (msgWord s.buf (rom i).g) (srom i).toNat s.x := rfl
@[simp] theorem stepWith_pc (f : Word → Word → Word → Word) (i : BitVec 6) (s : State) : (stepWith f i s).pc = s.pc + 1 := rfl
@[simp] theorem stepWith_cnt (f : Word → Word → Word → Word) (i : BitVec 6) (s : State) : (stepWith f i s).cnt = s.cnt := rfl
@[simp] theorem stepWith_buf (f : Word → Word → Word → Word) (i : BitVec 6) (s : State) : (stepWith f i s).buf = s.buf := rfl
@[simp] theorem stepWith_len (f : Word → Word → Word → Word) (i : BitVec 6) (s : State) : (stepWith f i s).len = s.len := rfl
@[simp] theorem stepWith_fin (f : Word → Word → Word → Word) (i : BitVec 6) (s : State) : (stepWith f i s).fin = s.fin := rfl
@[simp] theorem stepWith_errIS (f : Word → Word → Word → Word) (i : BitVec 6) (s : State) : (stepWith f i s).errIS = s.errIS := rfl
@[simp] theorem stepWith_errIC (f : Word → Word → Word → Word) (i : BitVec 6) (s : State) : (stepWith f i s).errIC = s.errIC := rfl
@[simp] theorem stepWith_rsp (f : Word → Word → Word → Word) (i : BitVec 6) (s : State) : (stepWith f i s).rsp = s.rsp := rfl
@[simp] theorem stepWith_seq (f : Word → Word → Word → Word) (i : BitVec 6) (s : State) : (stepWith f i s).seq = s.seq := rfl
@[simp] theorem stepWith_host (f : Word → Word → Word → Word) (i : BitVec 6) (s : State) : (stepWith f i s).host = s.host := rfl
@[simp] theorem stepWith_taken (f : Word → Word → Word → Word) (i : BitVec 6) (s : State) : (stepWith f i s).taken = s.taken := rfl

@[simp] theorem storeByte_h (b : Byte) (s : State) : (storeByte b s).h = s.h := rfl
@[simp] theorem storeByte_x (b : Byte) (s : State) : (storeByte b s).x = s.x := rfl
@[simp] theorem storeByte_pc (b : Byte) (s : State) : (storeByte b s).pc = s.pc := rfl
@[simp] theorem storeByte_cnt (b : Byte) (s : State) : (storeByte b s).cnt = s.cnt + 8 := rfl
@[simp] theorem storeByte_buf (b : Byte) (s : State) : (storeByte b s).buf = Memory.write s.buf s.len.toNat b := rfl
@[simp] theorem storeByte_len (b : Byte) (s : State) : (storeByte b s).len = s.len := rfl
@[simp] theorem storeByte_fin (b : Byte) (s : State) : (storeByte b s).fin = s.fin := rfl
@[simp] theorem storeByte_errIS (b : Byte) (s : State) : (storeByte b s).errIS = s.errIS := rfl
@[simp] theorem storeByte_errIC (b : Byte) (s : State) : (storeByte b s).errIC = s.errIC := rfl
@[simp] theorem storeByte_rsp (b : Byte) (s : State) : (storeByte b s).rsp = s.rsp := rfl
@[simp] theorem storeByte_seq (b : Byte) (s : State) : (storeByte b s).seq = s.seq := rfl
@[simp] theorem storeByte_host (b : Byte) (s : State) : (storeByte b s).host = s.host := rfl
@[simp] theorem storeByte_taken (b : Byte) (s : State) : (storeByte b s).taken = s.taken := rfl

@[simp] theorem presentCommand_h (w : PortWord) (s : State) : (presentCommand w s).h = s.h := rfl
@[simp] theorem presentCommand_x (w : PortWord) (s : State) : (presentCommand w s).x = s.x := rfl
@[simp] theorem presentCommand_pc (w : PortWord) (s : State) : (presentCommand w s).pc = s.pc := rfl
@[simp] theorem presentCommand_cnt (w : PortWord) (s : State) : (presentCommand w s).cnt = s.cnt := rfl
@[simp] theorem presentCommand_buf (w : PortWord) (s : State) : (presentCommand w s).buf = s.buf := rfl
@[simp] theorem presentCommand_len (w : PortWord) (s : State) : (presentCommand w s).len = s.len := rfl
@[simp] theorem presentCommand_fin (w : PortWord) (s : State) : (presentCommand w s).fin = s.fin := rfl
@[simp] theorem presentCommand_errIS (w : PortWord) (s : State) : (presentCommand w s).errIS = s.errIS := rfl
@[simp] theorem presentCommand_errIC (w : PortWord) (s : State) : (presentCommand w s).errIC = s.errIC := rfl
@[simp] theorem presentCommand_rsp (w : PortWord) (s : State) : (presentCommand w s).rsp = none := rfl
@[simp] theorem presentCommand_seq (w : PortWord) (s : State) : (presentCommand w s).seq = .idle := rfl
@[simp] theorem presentCommand_host (w : PortWord) (s : State) : (presentCommand w s).host = .command w :: s.host := rfl
@[simp] theorem presentCommand_taken (w : PortWord) (s : State) : (presentCommand w s).taken = s.taken := rfl

@[simp] theorem selectEntry_h (i : BitVec 6) (s : State) : (selectEntry i s).h = s.h := rfl
@[simp] theorem selectEntry_x (i : BitVec 6) (s : State) : (selectEntry i s).x = s.x := rfl
@[simp] theorem selectEntry_pc (i : BitVec 6) (s : State) : (selectEntry i s).pc = i := rfl
@[simp] theorem selectEntry_cnt (i : BitVec 6) (s : State) : (selectEntry i s).cnt = s.cnt := rfl
@[simp] theorem selectEntry_buf (i : BitVec 6) (s : State) : (selectEntry i s).buf = s.buf := rfl
@[simp] theorem selectEntry_len (i : BitVec 6) (s : State) : (selectEntry i s).len = s.len := rfl
@[simp] theorem selectEntry_fin (i : BitVec 6) (s : State) : (selectEntry i s).fin = s.fin := rfl
@[simp] theorem selectEntry_errIS (i : BitVec 6) (s : State) : (selectEntry i s).errIS = s.errIS := rfl
@[simp] theorem selectEntry_errIC (i : BitVec 6) (s : State) : (selectEntry i s).errIC = s.errIC := rfl
@[simp] theorem selectEntry_rsp (i : BitVec 6) (s : State) : (selectEntry i s).rsp = s.rsp := rfl
@[simp] theorem selectEntry_seq (i : BitVec 6) (s : State) : (selectEntry i s).seq = .running := rfl
@[simp] theorem selectEntry_host (i : BitVec 6) (s : State) : (selectEntry i s).host = s.host.dropWhile (fun a => decide (a = .reset)) := rfl
@[simp] theorem selectEntry_taken (i : BitVec 6) (s : State) : (selectEntry i s).taken = s.taken := rfl

@[simp] theorem raise_h (e : Cause) (s : State) : (raise e s).h = s.h := by cases e <;> rfl
@[simp] theorem raise_x (e : Cause) (s : State) : (raise e s).x = s.x := by cases e <;> rfl
@[simp] theorem raise_pc (e : Cause) (s : State) : (raise e s).pc = s.pc := by cases e <;> rfl
@[simp] theorem raise_cnt (e : Cause) (s : State) : (raise e s).cnt = s.cnt := by cases e <;> rfl
@[simp] theorem raise_buf (e : Cause) (s : State) : (raise e s).buf = s.buf := by cases e <;> rfl
@[simp] theorem raise_len (e : Cause) (s : State) : (raise e s).len = s.len := by cases e <;> rfl
@[simp] theorem raise_fin (e : Cause) (s : State) : (raise e s).fin = s.fin := by cases e <;> rfl
@[simp] theorem raise_invalidState_errIS (s : State) : (raise .invalidState s).errIS = true := rfl
@[simp] theorem raise_illegalCommand_errIS (s : State) : (raise .illegalCommand s).errIS = s.errIS := rfl
@[simp] theorem raise_invalidState_errIC (s : State) : (raise .invalidState s).errIC = s.errIC := rfl
@[simp] theorem raise_illegalCommand_errIC (s : State) : (raise .illegalCommand s).errIC = true := rfl
@[simp] theorem raise_rsp (e : Cause) (s : State) : (raise e s).rsp = some (responseWord (causeCode e) 0) := by cases e <;> rfl
@[simp] theorem raise_seq (e : Cause) (s : State) : (raise e s).seq = s.seq := by cases e <;> rfl
@[simp] theorem raise_host (e : Cause) (s : State) : (raise e s).host = s.host := by cases e <;> rfl
@[simp] theorem raise_taken (e : Cause) (s : State) : (raise e s).taken = s.taken := by cases e <;> rfl

@[simp] theorem hardReset_h (s : State) : (hardReset s).h = State.reset.h := rfl
@[simp] theorem hardReset_x (s : State) : (hardReset s).x = State.reset.x := rfl
@[simp] theorem hardReset_pc (s : State) : (hardReset s).pc = State.reset.pc := rfl
@[simp] theorem hardReset_cnt (s : State) : (hardReset s).cnt = State.reset.cnt := rfl
@[simp] theorem hardReset_buf (s : State) : (hardReset s).buf = State.reset.buf := rfl
@[simp] theorem hardReset_len (s : State) : (hardReset s).len = State.reset.len := rfl
@[simp] theorem hardReset_fin (s : State) : (hardReset s).fin = State.reset.fin := rfl
@[simp] theorem hardReset_errIS (s : State) : (hardReset s).errIS = State.reset.errIS := rfl
@[simp] theorem hardReset_errIC (s : State) : (hardReset s).errIC = State.reset.errIC := rfl
@[simp] theorem hardReset_rsp (s : State) : (hardReset s).rsp = State.reset.rsp := rfl
@[simp] theorem hardReset_seq (s : State) : (hardReset s).seq = State.reset.seq := rfl
@[simp] theorem hardReset_host (s : State) : (hardReset s).host = s.host := rfl
@[simp] theorem hardReset_taken (s : State) : (hardReset s).taken = s.taken := rfl

@[simp] theorem takeResponse_h (s : State) : (takeResponse s).h = s.h := by unfold takeResponse; split <;> rfl
@[simp] theorem takeResponse_x (s : State) : (takeResponse s).x = s.x := by unfold takeResponse; split <;> rfl
@[simp] theorem takeResponse_pc (s : State) : (takeResponse s).pc = s.pc := by unfold takeResponse; split <;> rfl
@[simp] theorem takeResponse_cnt (s : State) : (takeResponse s).cnt = s.cnt := by unfold takeResponse; split <;> rfl
@[simp] theorem takeResponse_buf (s : State) : (takeResponse s).buf = s.buf := by unfold takeResponse; split <;> rfl
@[simp] theorem takeResponse_len (s : State) : (takeResponse s).len = s.len := by unfold takeResponse; split <;> rfl
@[simp] theorem takeResponse_fin (s : State) : (takeResponse s).fin = s.fin := by unfold takeResponse; split <;> rfl
@[simp] theorem takeResponse_errIS (s : State) : (takeResponse s).errIS = s.errIS := by unfold takeResponse; split <;> rfl
@[simp] theorem takeResponse_errIC (s : State) : (takeResponse s).errIC = s.errIC := by unfold takeResponse; split <;> rfl
@[simp] theorem takeResponse_rsp (s : State) : (takeResponse s).rsp = none := by
  unfold takeResponse; split <;> simp_all
@[simp] theorem takeResponse_seq (s : State) : (takeResponse s).seq = s.seq := by unfold takeResponse; split <;> rfl
@[simp] theorem takeResponse_host (s : State) : (takeResponse s).host = s.host := by unfold takeResponse; split <;> rfl
@[simp] theorem takeResponse_taken (s : State) : (takeResponse s).taken = s.taken ++ s.rsp.toList := by
  unfold takeResponse; split <;> simp_all

/-- The response words, computed. -/
theorem responseWord_invalidState : responseWord (causeCode .invalidState) 0 = 0x0100 := by decide
theorem responseWord_illegalCommand : responseWord (causeCode .illegalCommand) 0 = 0x0200 := by decide
theorem responseWord_ok (d : Byte) : responseWord 0 d = 0x00#8 ++ d := rfl

end Sys2Proof.Machine
end

