-- ==== Sys2Proof/Laws/BlockTransform.lean ====
section
/-! SUPPORT. What a step, a run of steps and a Transform can do: the step ROM against the formulas of the rules, and the
machine's registers against the reference of Sys2Proof/Safety.lean. -/
namespace Sys2Proof.Machine

/-- The entry's round function as a function (R70, R113 to R116). -/
theorem romStep_eq_stepWith (i : BitVec 6) (s : State) : romStep i s = stepWith (Md5.fn i.toNat) i s := by
  have key : ∀ i : BitVec 6,
      (rom i).fn = [RoundFn.F, .G, .H, .I].getD (i.toNat / 16) .F := by decide +kernel
  have hi : i.toNat / 16 < 4 := by have := i.isLt; omega
  have hfn := key i
  unfold romStep
  generalize hq : i.toNat / 16 = q at hfn hi
  rw [hfn]
  interval_cases q <;> simp only [List.getD_cons_zero, List.getD_cons_succ, stepFF, stepGG, stepHH, stepII] <;>
    congr 1 <;> funext x y z <;> simp [Md5.fn, hq, fnF, fnG, fnH, fnI]

/-- The word index and the rotation amount of an entry are the values of the formulas (R117, R118). -/
theorem rom_g_eq (i : BitVec 6) : (rom i).g.toNat = Md5.index i.toNat := by
  revert i; decide +kernel

theorem srom_eq (i : BitVec 6) : (srom i).toNat = Md5.rotation i.toNat := by
  revert i; decide +kernel

theorem rotation_pos_lt (i : BitVec 6) : 0 < Md5.rotation i.toNat ∧ Md5.rotation i.toNat < 32 := by
  revert i; decide +kernel

theorem rotl32_eq_rotateLeft (v : Word) {r : Nat} (h : r < 32) : rotl32 v r = v.rotateLeft r := by
  rw [rotl32, BitVec.rotateLeft, BitVec.rotateLeftAux, Nat.mod_eq_of_lt h]

theorem bufBytes_getD (m : Memory) {a : Nat} (h : a < 64) : (bufBytes m).getD a 0 = Memory.read m a := by
  simp [bufBytes, List.getD_eq_getElem?_getD, h]

theorem msgWord_eq_word (m : Memory) (g : BitVec 4) : msgWord m g = Md5.word (bufBytes m) g.toNat := by
  have := g.isLt
  rw [msgWord_eq_append, Md5.word, bufBytes_getD m (by omega), bufBytes_getD m (by omega), bufBytes_getD m (by omega),
    bufBytes_getD m (by omega)]

/-- One step in full: the working registers by the formulas, `pc + 1`, nothing else (R120 to R123, R23). -/
theorem romStep_eq (i : BitVec 6) (s : State) :
    romStep i s = { s with x := Md5.step (bufBytes s.buf) s.x i.toNat, pc := s.pc + 1 } := by
  rw [romStep_eq_stepWith, stepWith, stepRegs]
  simp only [Md5.step, krom, msgWord_eq_word, rom_g_eq, srom_eq, BitVec.ofNat_toNat, BitVec.setWidth_eq,
    rotl32_eq_rotateLeft _ (rotation_pos_lt i).2]

theorem registers_succ (n : Nat) (h : Quad) (B : List Byte) :
    Md5.registers (n + 1) h B = Md5.step B (Md5.registers n h B) n := by
  simp [Md5.registers, List.range_succ]

theorem runSteps_succ (n : Nat) (s : State) : runSteps (n + 1) s = romStep (runSteps n s).pc (runSteps n s) := by
  induction n generalizing s with
  | zero => rfl
  | succ n ih => rw [runSteps, ih]; rfl

/-- `n` steps from entry 0: `x` by the reference, `pc = n`, nothing else. -/
theorem runSteps_eq (n : Nat) (hn : n ≤ 64) (s : State) (hpc : s.pc = 0) :
    runSteps n s = { s with x := Md5.registers n s.x (bufBytes s.buf), pc := BitVec.ofNat 6 n } := by
  induction n with
  | zero => cases s; cases hpc; rfl
  | succ n ih =>
    rw [runSteps_succ, ih (by omega), romStep_eq, registers_succ]
    have hm : n % 64 = n := Nat.mod_eq_of_lt (by omega)
    simp [hm, BitVec.ofNat_add]

/-- `Transform` in full (R110): H by `Compress`, `x` by the 64 steps, `pc` and `seq` at rest, nothing else. -/
theorem transform_eq (s : State) : transform s =
    { s with h := Md5.compress s.h (bufBytes s.buf), x := Md5.registers 64 s.h (bufBytes s.buf), pc := 0, seq := .idle } := by
  rw [transform, runSteps_eq 64 (by decide) _ rfl]
  rfl

end Sys2Proof.Machine
end

