-- ==== Sys2Proof/Laws/Decode.lean ====
section
/-! SUPPORT. A command word and its three fields (R64), and the decoder in terms of the fields. -/
namespace Sys2Proof

/-- The word with these three fields. -/
def packWord (op rsv : BitVec 4) (imm8 : Byte) : PortWord := op ++ (rsv ++ imm8)

theorem packWord_toNat (op rsv : BitVec 4) (imm8 : Byte) :
    (packWord op rsv imm8).toNat = 4096 * op.toNat + 256 * rsv.toNat + imm8.toNat := by
  have h1 := imm8.isLt
  have h2 := rsv.isLt
  simp only [packWord, BitVec.toNat_append]
  rw [← Nat.shiftLeft_add_eq_or_of_lt h1, ← Nat.shiftLeft_add_eq_or_of_lt (by simp only [Nat.shiftLeft_eq]; omega)]
  simp only [Nat.shiftLeft_eq]
  omega

/-- Every word is made of its fields. -/
theorem packWord_fields (w : PortWord) : packWord (opField w) (rsvField w) (immField w) = w := by
  apply BitVec.eq_of_toNat_eq
  rw [packWord_toNat]
  have := w.isLt
  simp only [opField, rsvField, immField, BitVec.extractLsb'_toNat, Nat.shiftRight_eq_div_pow]
  omega

@[simp] theorem opField_packWord (op rsv : BitVec 4) (imm8 : Byte) : opField (packWord op rsv imm8) = op := by
  apply BitVec.eq_of_toNat_eq
  have h1 := imm8.isLt
  have h2 := rsv.isLt
  have h3 := op.isLt
  simp only [opField, BitVec.extractLsb'_toNat, Nat.shiftRight_eq_div_pow, packWord_toNat]
  omega

@[simp] theorem rsvField_packWord (op rsv : BitVec 4) (imm8 : Byte) : rsvField (packWord op rsv imm8) = rsv := by
  apply BitVec.eq_of_toNat_eq
  have h1 := imm8.isLt
  have h2 := rsv.isLt
  have h3 := op.isLt
  simp only [rsvField, BitVec.extractLsb'_toNat, Nat.shiftRight_eq_div_pow, packWord_toNat]
  omega

@[simp] theorem immField_packWord (op rsv : BitVec 4) (imm8 : Byte) : immField (packWord op rsv imm8) = imm8 := by
  apply BitVec.eq_of_toNat_eq
  have h1 := imm8.isLt
  have h2 := rsv.isLt
  have h3 := op.isLt
  simp only [immField, BitVec.extractLsb'_toNat, Nat.shiftRight_eq_div_pow, packWord_toNat]
  omega

theorem commandWord_eq_packWord (op : BitVec 4) (imm8 : Byte) : commandWord op imm8 = packWord op 0 imm8 := rfl

/-- A field inside the operand byte is a field of the word (R66). -/
theorem packWord_extractLow (op rsv : BitVec 4) (imm8 : Byte) {lo n : Nat} (h : lo + n ≤ 8) :
    (packWord op rsv imm8).extractLsb' lo n = imm8.extractLsb' lo n := by
  conv_rhs => rw [← immField_packWord op rsv imm8, immField]
  ext j hj
  simp only [BitVec.getElem_extractLsb', BitVec.getLsbD_extractLsb', Nat.zero_add]
  simp [show lo + j < 8 by omega]

/-- Two words are equal when their fields are. -/
theorem packWord_inj {op op' rsv rsv' : BitVec 4} {imm8 imm8' : Byte} :
    packWord op rsv imm8 = packWord op' rsv' imm8' ↔ op = op' ∧ rsv = rsv' ∧ imm8 = imm8' := by
  refine ⟨fun h => ⟨?_, ?_, ?_⟩, fun ⟨h1, h2, h3⟩ => by rw [h1, h2, h3]⟩
  · simpa using congrArg opField h
  · simpa using congrArg rsvField h
  · simpa using congrArg immField h

/-- A mask acts on the fields one by one. -/
theorem packWord_and (op rsv op' rsv' : BitVec 4) (imm8 imm8' : Byte) :
    packWord op rsv imm8 &&& packWord op' rsv' imm8' = packWord (op &&& op') (rsv &&& rsv') (imm8 &&& imm8') := by
  exact BitVec.and_append.trans (congrArg (fun v => (op &&& op') ++ v) BitVec.and_append)

/-- A word that decodes, by cases: its opcode, `rsv` 0, and the operand byte (R65, R66). -/
theorem decodeCommand_ok_cases {w : PortWord} {i : Instr} (h : decodeCommand w = .ok i) :
    (w = packWord 0 0 0 ∧ i = .nop) ∨ (w = packWord 1 0 0 ∧ i = .init) ∨ (∃ b, w = packWord 2 0 b ∧ i = .update b) ∨
    (w = packWord 3 0 0 ∧ i = .digest) ∨
    (∃ b, w = packWord 4 0 b ∧ i = .rdhex b ∧ b.extractLsb' 5 3 = 0) ∨
    (∃ b, w = packWord 5 0 b ∧ i = .rddig b ∧ b.extractLsb' 4 4 = 0) ∨ (w = packWord 6 0 0 ∧ i = .rdstat) := by
  obtain ⟨op, rsv, imm8, rfl⟩ : ∃ op rsv imm8, w = packWord op rsv imm8 := ⟨_, _, _, (packWord_fields w).symm⟩
  simp only [decodeCommand, decodeBare, decodeRdhex, decodeRddig, opField_packWord, rsvField_packWord,
    immField_packWord] at h
  split at h
  · cases h
  split at h
  · cases h
  next h7 hr =>
  obtain rfl : rsv = 0 := by simpa using hr
  have hop : ∀ n, op.toNat = n → op = BitVec.ofNat 4 n := by rintro _ rfl; simp
  split at h <;> next ho => first
    | (split at h <;> cases h <;> next hi => simp [hop _ ho, packWord_inj, hi])
    | (cases h; simp [hop _ ho, packWord_inj])
    | cases h

end Sys2Proof
end

