-- ==== Sys2Proof/Laws/Message.lean ====
section
/-! SUPPORT. What absorbing a byte, or a list of bytes, can do to the state (R84). -/
namespace Sys2Proof.Machine

/-- The state of a message: what `Absorb` and INIT write. `absorb` changes nothing else. -/
theorem absorb_frame (b : Byte) (s : State) :
    (absorb b s).fin = s.fin ∧ (absorb b s).errIS = s.errIS ∧ (absorb b s).errIC = s.errIC ∧ (absorb b s).rsp = s.rsp ∧
    (absorb b s).host = s.host ∧ (absorb b s).taken = s.taken := by
  unfold absorb
  split
  · rw [transform_eq]; simp
  · simp

/-- `Absorb` of a byte that does not fill the block (R84). -/
theorem absorb_of_ne (b : Byte) (s : State) (h : s.len ≠ 63) :
    absorb b s = { s with buf := Memory.write s.buf s.len.toNat b, cnt := s.cnt + 8, len := s.len + 1 } := by
  rw [absorb, if_neg h]; rfl

/-- The 64 cells after the 64th byte: the pending ones and that byte. -/
theorem bufBytes_write_last (m : Memory) (b : Byte) :
    bufBytes (Memory.write m 63 b) = (List.range 63).map (Memory.read m) ++ [b] := by
  rw [bufBytes, show (64 : Nat) = 63 + 1 from rfl, List.range_succ, List.map_append]
  congr 1
  · refine List.map_congr_left fun a ha => ?_
    rw [Memory.read_write, if_neg (by simp at ha; omega)]
  · simp [Memory.read_write]

/-- `Absorb` of the byte that fills the block (R84). -/
theorem absorb_of_eq (b : Byte) (s : State) (h : s.len = 63) :
    absorb b s = { s with
      h := Md5.compress s.h ((List.range 63).map (Memory.read s.buf) ++ [b])
      x := Md5.registers 64 s.h ((List.range 63).map (Memory.read s.buf) ++ [b])
      pc := 0, seq := .idle, buf := Memory.write s.buf 63 b, cnt := s.cnt + 8, len := 0 } := by
  rw [absorb, if_pos h, transform_eq]
  have h63 : s.len.toNat = 63 := by rw [h]; rfl
  simp [h63, bufBytes_write_last]

theorem absorbAll_cons (b : Byte) (bs : List Byte) (s : State) : absorbAll (b :: bs) s = absorbAll bs (absorb b s) := rfl

theorem absorbAll_append (as bs : List Byte) (s : State) : absorbAll (as ++ bs) s = absorbAll bs (absorbAll as s) :=
  List.foldl_append ..

/-- What `absorb` keeps, any number of them keep: an induction done once. -/
theorem absorbAll_invariant {P : State → Prop} (hP : ∀ b s, P s → P (absorb b s)) (bs : List Byte) (s : State) (h : P s) :
    P (absorbAll bs s) := by
  induction bs generalizing s with
  | nil => exact h
  | cons b bs ih => exact ih _ (hP b s h)

theorem absorbAll_frame (bs : List Byte) (s : State) :
    (absorbAll bs s).fin = s.fin ∧ (absorbAll bs s).errIS = s.errIS ∧ (absorbAll bs s).errIC = s.errIC ∧
    (absorbAll bs s).rsp = s.rsp ∧ (absorbAll bs s).host = s.host ∧ (absorbAll bs s).taken = s.taken := by
  induction bs generalizing s with
  | nil => simp [absorbAll]
  | cons b bs ih =>
    obtain ⟨h1, h2, h3, h4, h5, h6⟩ := absorb_frame b s
    obtain ⟨i1, i2, i3, i4, i5, i6⟩ := ih (absorb b s)
    rw [absorbAll_cons]
    exact ⟨i1.trans h1, i2.trans h2, i3.trans h3, i4.trans h4, i5.trans h5, i6.trans h6⟩

/-- The counter after a list of bytes (R24, R84). -/
theorem absorbAll_cnt (bs : List Byte) (s : State) :
    (absorbAll bs s).cnt = s.cnt + BitVec.ofNat 64 (8 * bs.length) := by
  induction bs generalizing s with
  | nil => simp [absorbAll]
  | cons b bs ih =>
    have h1 : (absorb b s).cnt = s.cnt + 8 := by
      unfold absorb; split
      · rw [transform_eq]; rfl
      · rfl
    rw [absorbAll_cons, ih, h1, List.length_cons, Nat.mul_add, BitVec.ofNat_add, BitVec.add_assoc,
      BitVec.add_comm (BitVec.ofNat 64 (8 * bs.length))]
    rfl

/-- Bytes that do not reach the end of the block: they are stored from LEN on, and only BUF, CNT and LEN change. -/
theorem absorbAll_short (bs : List Byte) (s : State) (h : s.len.toNat + bs.length ≤ 63) :
    (absorbAll bs s).h = s.h ∧ (absorbAll bs s).x = s.x ∧ (absorbAll bs s).pc = s.pc ∧ (absorbAll bs s).seq = s.seq ∧
    (absorbAll bs s).len.toNat = s.len.toNat + bs.length ∧
    (∀ a, Memory.read (absorbAll bs s).buf a =
      if s.len.toNat ≤ a ∧ a < s.len.toNat + bs.length then bs.getD (a - s.len.toNat) 0 else Memory.read s.buf a) := by
  induction bs generalizing s with
  | nil => simp [absorbAll]
  | cons b bs ih =>
    have hl : s.len.toNat < 63 := by simp at h; omega
    have hne : s.len ≠ 63 := by intro h'; rw [h'] at hl; exact absurd hl (by decide)
    rw [absorbAll_cons, absorb_of_ne b s hne]
    have hlen : (s.len + 1).toNat = s.len.toNat + 1 := by
      rw [BitVec.toNat_add]; exact Nat.mod_eq_of_lt (by change s.len.toNat + 1 < 64; omega)
    obtain ⟨h1, h2, h3, h4, h5, h6⟩ := ih { s with
      buf := Memory.write s.buf s.len.toNat b, cnt := s.cnt + 8, len := s.len + 1 } (by simp at h ⊢; omega)
    refine ⟨h1, h2, h3, h4, by rw [h5]; simp; omega, fun a => ?_⟩
    rw [h6]
    simp only [hlen, Memory.read_write, List.length_cons]
    by_cases ha : a = s.len.toNat
    · subst ha; simp
    · by_cases hb : s.len.toNat + 1 ≤ a ∧ a < s.len.toNat + 1 + bs.length
      · have hi : a - s.len.toNat = (a - (s.len.toNat + 1)) + 1 := by omega
        rw [if_pos hb, if_pos (by omega), hi, List.getD_cons_succ]
      · rw [if_neg hb, if_neg ha, if_neg (by omega)]

/-- The bytes at addresses 0 to `n - 1` of BUF. -/
theorem map_read_take (bs : List Byte) (m : Memory) (n k : Nat) (hn : n = k + bs.length)
    (f : Nat → Byte) (hf : ∀ a, f a = if k ≤ a ∧ a < k + bs.length then bs.getD (a - k) 0 else Memory.read m a) :
    (List.range n).map f = (List.range k).map (Memory.read m) ++ bs := by
  subst hn
  rw [List.range_add, List.map_append]
  congr 1
  · refine List.map_congr_left fun a ha => ?_
    rw [hf, if_neg (by simp at ha; omega)]
  · refine List.ext_getElem (by simp) fun j h1 h2 => ?_
    simp only [List.length_map, List.length_range] at h1
    simp [hf, h1, List.getD_eq_getElem?_getD]

/-- Bytes that exactly complete the block: H becomes `Compress` of the pending bytes and these, LEN 0 (R84, R104). -/
theorem absorbAll_block (bs : List Byte) (s : State) (h : s.len.toNat + bs.length = 64) :
    let block := (List.range s.len.toNat).map (Memory.read s.buf) ++ bs
    (absorbAll bs s).h = Md5.compress s.h block ∧ (absorbAll bs s).x = Md5.registers 64 s.h block ∧
    (absorbAll bs s).pc = 0 ∧ (absorbAll bs s).seq = .idle ∧ (absorbAll bs s).len = 0 ∧
    (∀ a < 64, Memory.read (absorbAll bs s).buf a = block.getD a 0) ∧
    (∀ a, 64 ≤ a → Memory.read (absorbAll bs s).buf a = Memory.read s.buf a) := by
  intro block
  have hlt := s.len.isLt
  obtain ⟨init, b, rfl⟩ : ∃ init b, bs = init ++ [b] :=
    ⟨bs.dropLast, bs.getLast (by rintro rfl; simp at h; omega), (List.dropLast_append_getLast _).symm⟩
  simp only [List.length_append, List.length_singleton] at h
  obtain ⟨h1, h2, h3, h4, h5, h6⟩ := absorbAll_short init s (by omega)
  have h63 : (absorbAll init s).len = 63 := BitVec.eq_of_toNat_eq (by rw [h5]; change _ = 63; omega)
  have hp : (List.range 63).map (Memory.read (absorbAll init s).buf) =
      (List.range s.len.toNat).map (Memory.read s.buf) ++ init :=
    map_read_take init s.buf 63 s.len.toNat (by omega) _ h6
  have hb : (List.range 63).map (Memory.read (absorbAll init s).buf) ++ [b] = block := by
    rw [hp]; simp [block]
  rw [absorbAll_append, absorbAll_cons, absorb_of_eq b _ h63, hb, h1]
  refine ⟨rfl, rfl, rfl, rfl, rfl, fun a ha => ?_, fun a ha => ?_⟩
  · rw [← hb, ← bufBytes_write_last, bufBytes_getD _ ha]; rfl
  · change Memory.read (Memory.write _ 63 b) a = _
    rw [Memory.read_write, if_neg (by omega), h6, if_neg (by omega)]

/-- There are LEN pending bytes. -/
@[simp] theorem pendingBytes_length (s : State) : (pendingBytes s).length = s.len.toNat := by simp [pendingBytes]

/-- A byte that does not fill the block joins the pending ones. -/
theorem pendingBytes_absorb (b : Byte) (s : State) (h : s.len ≠ 63) : pendingBytes (absorb b s) = pendingBytes s ++ [b] := by
  have hl : s.len.toNat < 63 := by
    have := s.len.isLt
    have : s.len.toNat ≠ 63 := fun h' => h (BitVec.eq_of_toNat_eq h')
    omega
  have hlen : (s.len + 1).toNat = s.len.toNat + 1 := by
    rw [BitVec.toNat_add]; exact Nat.mod_eq_of_lt (by change s.len.toNat + 1 < 64; omega)
  rw [absorb_of_ne b s h]
  simp only [pendingBytes, hlen, List.range_succ, List.map_append, List.map_cons, List.map_nil]
  congr 1
  · refine List.map_congr_left fun a ha => ?_
    have := List.mem_range.mp ha
    rw [Memory.read_write, if_neg (by omega)]
  · rw [Memory.read_write, if_pos rfl]

/-- Any list of bytes: the complete blocks of the pending bytes and these are compressed in order, the rest is pending. -/
theorem absorbAll_blocks (bs : List Byte) (s : State) :
    (absorbAll bs s).h = Md5.compressBlocks ((s.len.toNat + bs.length) / 64) s.h (pendingBytes s ++ bs) ∧
    (absorbAll bs s).len.toNat = (s.len.toNat + bs.length) % 64 ∧
    pendingBytes (absorbAll bs s) = (pendingBytes s ++ bs).drop (64 * ((s.len.toNat + bs.length) / 64)) := by
  induction bs generalizing s with
  | nil =>
    have := s.len.isLt
    simp [absorbAll, Nat.div_eq_of_lt this, Nat.mod_eq_of_lt this, Md5.compressBlocks]
  | cons b bs ih =>
    rw [absorbAll_cons]
    obtain ⟨h1, h2, h3⟩ := ih (absorb b s)
    rw [h1, h2, h3]
    by_cases h63 : s.len = 63
    · have hn : s.len.toNat = 63 := by rw [h63]; rfl
      have hp : pendingBytes (absorb b s) = [] := by rw [absorb_of_eq b s h63]; rfl
      have hl : (absorb b s).len.toNat = 0 := by rw [absorb_of_eq b s h63]; rfl
      have hh : (absorb b s).h = Md5.compress s.h (pendingBytes s ++ [b]) := by
        rw [absorb_of_eq b s h63]; simp [pendingBytes, hn]
      have hq : (63 + (bs.length + 1)) / 64 = bs.length / 64 + 1 := by omega
      have ht : (pendingBytes s ++ b :: bs).take 64 = pendingBytes s ++ [b] := by
        rw [List.take_append, pendingBytes_length, hn]
        simp [List.take_of_length_le, hn]
      have hd : (pendingBytes s ++ b :: bs).drop 64 = bs := by
        rw [List.drop_append, pendingBytes_length, hn]
        simp [hn]
      rw [hp, hl, hh, List.length_cons, hn, hq, Md5.compressBlocks, ht, hd]
      refine ⟨by simp, by omega, ?_⟩
      rw [Nat.mul_add, Nat.add_comm (64 * _), Nat.mul_one, ← List.drop_drop, hd]; simp
    · have hl : (absorb b s).len.toNat = s.len.toNat + 1 := by
        rw [← pendingBytes_length, pendingBytes_absorb b s h63]; simp
      have hh : (absorb b s).h = s.h := by rw [absorb_of_ne b s h63]
      rw [pendingBytes_absorb b s h63, hl, hh, List.length_cons]
      simp [Nat.add_assoc, Nat.add_comm 1]

/-- The ports do not enter an absorption, and it leaves them. -/
theorem absorb_ports (b : Byte) (s : State) (r : Option PortWord) (hs : List HostAction) (tk : List PortWord) :
    absorb b { s with rsp := r, host := hs, taken := tk } = { absorb b s with rsp := r, host := hs, taken := tk } := by
  by_cases h63 : s.len = 63
  · rw [absorb_of_eq b s h63, absorb_of_eq b _ (by exact h63)]
  · rw [absorb_of_ne b s h63, absorb_of_ne b _ (by exact h63)]

theorem absorbAll_ports (bs : List Byte) (s : State) (r : Option PortWord) (hs : List HostAction) (tk : List PortWord) :
    absorbAll bs { s with rsp := r, host := hs, taken := tk } = { absorbAll bs s with rsp := r, host := hs, taken := tk } := by
  induction bs generalizing s with
  | nil => rfl
  | cons b bs ih => rw [absorbAll_cons, absorbAll_cons, absorb_ports, ih]

/-- No absorption leaves the sequencer inside a Transform. -/
theorem absorb_seq (b : Byte) (s : State) (h : s.seq = .idle) : (absorb b s).seq = .idle := by
  by_cases h63 : s.len = 63
  · rw [absorb_of_eq b s h63]
  · rw [absorb_of_ne b s h63]; exact h

/-- Every absorption keeps BUF in canonical form. -/
theorem absorb_wf (b : Byte) (s : State) (h : Memory.wf s.buf) : Memory.wf (absorb b s).buf := by
  by_cases h63 : s.len = 63
  · rw [absorb_of_eq b s h63]; exact Memory.wf_write 63 b (by decide) h
  · rw [absorb_of_ne b s h63]; exact Memory.wf_write _ b s.len.isLt h

/-- The bytes of DIGEST as one list: 0x80, the zeros, the trailer (R101, R102). -/
theorem trailer_eq (t : BitVec 64) : trailer t = Md5.le64 t := rfl

theorem finalBytes_length (n : BitVec 6) (t : BitVec 64) : (finalBytes n t).length = padLength n + 8 := by
  have := n.isLt
  simp only [finalBytes, padLength, trailer, List.length_append, List.length_cons, List.length_replicate, List.length_map,
    List.length_range]
  split <;> omega

end Sys2Proof.Machine
end

