-- ==== Sys2Proof/Laws/Exec.lean ====
section
/-! SUPPORT. What an instruction and a step can do: one inversion lemma for each. -/
namespace Sys2Proof.Machine

/-- An entry of the step ROM runs the step of its index (R110, R124). -/
theorem exec_of_encode_rom {i : Instr} {k : BitVec 6} (h : encode i = .rom k) (s : State) :
    exec i s = .next (romStep k s) := by
  cases i <;> simp only [encode, Code.rom.injEq, reduceCtorEq] at h <;> subst h <;> rfl

/-- The index of an entry is the code of its instruction. -/
theorem encode_decodeStep (k : BitVec 6) : encode (decodeStep k) = .rom k := by
  revert k; decide +kernel

/-- What the sequencer executes at index `k` (R42). -/
theorem exec_decodeStep (k : BitVec 6) (s : State) : exec (decodeStep k) s = .next (romStep k s) :=
  exec_of_encode_rom (encode_decodeStep k) s

/-- The state a host command leads to, by cases on the command: the whole of what the seven meanings can do. -/
def commandResult (i : Instr) (s : State) : State :=
  match i with
  | .nop => respond 0 s
  | .init => respond 0 { s with h := Quad.iv, cnt := 0, len := 0, fin := false }
  | .update b => if s.fin then raise .invalidState s else respond 0 (absorb b s)
  | .digest =>
    if s.fin then raise .invalidState s
    else respond 0 { absorbAll (finalBytes s.len s.cnt) s with fin := true }
  | .rdhex imm8 => readView (hexIndex imm8) (hex s.h) s
  | .rddig imm8 => readView (digIndex imm8) (dg s.h) s
  | .rdstat => respond (statusReg s) s
  | _ => s

theorem exec_of_isCommand {i : Instr} (h : i.isCommand) (s : State) : exec i s = .next (commandResult i s) := by
  cases i <;> first
    | rfl
    | (simp only [exec, execUpdate, execDigest, commandResult, messageByte]; split <;> rfl)
    | (simp [Instr.isCommand, encode] at h)

/-- Every instruction either is a host command or stands in the ROM, and answers a next state (R168). -/
theorem exec_cases (i : Instr) (s : State) :
    (i.isCommand ∧ exec i s = .next (commandResult i s)) ∨
    (i.isCommand = false ∧ ∃ k, encode i = .rom k ∧ exec i s = .next (romStep k s)) := by
  cases h : encode i with
  | command w =>
    have hc : i.isCommand = true := by simp [Instr.isCommand, h]
    exact .inl ⟨hc, exec_of_isCommand hc s⟩
  | rom k => exact .inr ⟨by simp [Instr.isCommand, h], k, rfl, exec_of_encode_rom h s⟩

/-- A read command, by cases (R86, R87). -/
theorem readView_cases {w : Nat} (k : Option (BitVec w)) (view : BitVec w → Byte) (s : State) :
    readView k view s = raise .illegalCommand s ∨ (s.fin = false ∧ readView k view s = raise .invalidState s) ∨
    (s.fin = true ∧ ∃ v, readView k view s = respond v s) := by
  unfold readView
  split
  · exact .inl rfl
  · cases h : s.fin
    · exact .inr (.inl ⟨rfl, rfl⟩)
    · exact .inr (.inr ⟨rfl, _, rfl⟩)

/-- How a host command can end: with return code 0 and the error bits as before, or as one of the two errors. -/
theorem commandResult_cases {i : Instr} (hc : i.isCommand) (s : State) :
    (∃ d, (commandResult i s).rsp = some (responseWord 0 d) ∧ (commandResult i s).errIS = s.errIS ∧
      (commandResult i s).errIC = s.errIC) ∨
    commandResult i s = raise .invalidState s ∨ commandResult i s = raise .illegalCommand s := by
  cases i with
  | update b =>
    obtain ⟨-, h2, h3, -⟩ := absorb_frame b s
    simp only [commandResult]
    split
    · exact .inr (.inl rfl)
    · exact .inl ⟨0, rfl, h2, h3⟩
  | digest =>
    obtain ⟨-, h2, h3, -⟩ := absorbAll_frame (finalBytes s.len s.cnt) s
    simp only [commandResult]
    split
    · exact .inr (.inl rfl)
    · exact .inl ⟨0, rfl, h2, h3⟩
  | rdhex k =>
    rcases readView_cases (hexIndex k) (hex s.h) s with h | ⟨-, h⟩ | ⟨-, v, h⟩ <;> simp only [commandResult, h]
    · exact .inr (.inr trivial)
    · exact .inr (.inl trivial)
    · exact .inl ⟨v, rfl, rfl, rfl⟩
  | rddig k =>
    rcases readView_cases (digIndex k) (dg s.h) s with h | ⟨-, h⟩ | ⟨-, v, h⟩ <;> simp only [commandResult, h]
    · exact .inr (.inr trivial)
    · exact .inr (.inl trivial)
    · exact .inl ⟨v, rfl, rfl, rfl⟩
  | nop | init | rdstat => exact .inl ⟨_, rfl, rfl, rfl⟩
  | _ => simp [Instr.isCommand, encode] at hc

theorem hexIndex_setWidth (k : BitVec 5) : hexIndex (k.setWidth 8) = some k := by revert k; decide +kernel

theorem digIndex_setWidth (k : BitVec 4) : digIndex (k.setWidth 8) = some k := by revert k; decide +kernel

/-- A step, by cases on what the host does next and on the sequencer. -/
theorem step_cases (s : State) :
    (∃ rest, s.host = .reset :: rest ∧ step s = .next (hardReset { s with host := rest })) ∨
    ((∀ rest, s.host ≠ .reset :: rest) ∧ s.seq = .running ∧
      step s = .next (if s.pc = 63 then finishTransform (romStep s.pc s) else romStep s.pc s)) ∨
    (s.seq = .idle ∧ s.host = [] ∧ step s = .next s) ∨
    (∃ rest, s.seq = .idle ∧ s.host = .take :: rest ∧ step s = .next (takeResponse { s with host := rest })) ∨
    (∃ w rest, s.seq = .idle ∧ s.host = .command w :: rest ∧
      ((s.rsp ≠ none ∧ step s = .next s) ∨ (s.rsp = none ∧ step s = runCommand w { s with host := rest }))) := by
  unfold step engineStep
  rcases hh : s.host with _ | ⟨a, rest⟩
  · cases hs : s.seq <;> simp [sequencerStep, exec_decodeStep, afterRomStep]
  · cases a <;> cases hs : s.seq <;> simp [sequencerStep, exec_decodeStep, afterRomStep, cmdReady, hs]
    next w => cases s.rsp <;> simp

/-- An accepted word, by cases: an illegal one is answered, a legal one runs a host command (R80). -/
theorem runCommand_cases (w : PortWord) (s : State) :
    (∃ e, decodeCommand w = .error e ∧ runCommand w s = .next (raise .illegalCommand s)) ∨
    (∃ i, decodeCommand w = .ok i ∧ i.isCommand ∧ i.wf ∧ runCommand w s = .next (commandResult i s)) := by
  unfold runCommand
  cases h : decodeCommand w with
  | error e => exact .inl ⟨e, rfl, rfl⟩
  | ok i =>
    have hc : i.isCommand ∧ i.wf := by
      simp only [decodeCommand, decodeBare, decodeRdhex, decodeRddig] at h
      split at h <;> first | cases h | skip
      split at h <;> first | cases h | skip
      split at h <;> first
        | cases h; exact ⟨rfl, rfl⟩
        | (split at h <;> cases h <;> simp_all [Instr.isCommand, encode, Instr.wf])
        | cases h
    exact .inr ⟨i, rfl, hc.1, hc.2, exec_of_isCommand hc.1 s⟩

end Sys2Proof.Machine
end

