-- ==== Sys2Proof/Laws/PerInstr.lean ====
section
/-! SUPPORT. A statement for every instruction as syntax: its encoding is the one that its row of spec/opcode_table.json
prints, held against the row's match and mask. -/
namespace Sys2Proof.Laws.TableRow

/-- A row of the opcode table: how many bits it has, its match and its mask. -/
structure Row where
  width : Nat
  pattern : Nat
  mask : Nat

/-- The row of each instruction, copied from the table. -/
def row : Instr → Row
  | .nop => ⟨16, 0x0000, 0xFFFF⟩
  | .init => ⟨16, 0x1000, 0xFFFF⟩
  | .update _ => ⟨16, 0x2000, 0xFF00⟩
  | .digest => ⟨16, 0x3000, 0xFFFF⟩
  | .rdhex _ => ⟨16, 0x4000, 0xFFE0⟩
  | .rddig _ => ⟨16, 0x5000, 0xFFF0⟩
  | .rdstat => ⟨16, 0x6000, 0xFFFF⟩
  | .step00FF => ⟨6, 0x00, 0x3F⟩
  | .step01FF => ⟨6, 0x01, 0x3F⟩
  | .step02FF => ⟨6, 0x02, 0x3F⟩
  | .step03FF => ⟨6, 0x03, 0x3F⟩
  | .step04FF => ⟨6, 0x04, 0x3F⟩
  | .step05FF => ⟨6, 0x05, 0x3F⟩
  | .step06FF => ⟨6, 0x06, 0x3F⟩
  | .step07FF => ⟨6, 0x07, 0x3F⟩
  | .step08FF => ⟨6, 0x08, 0x3F⟩
  | .step09FF => ⟨6, 0x09, 0x3F⟩
  | .step10FF => ⟨6, 0x0A, 0x3F⟩
  | .step11FF => ⟨6, 0x0B, 0x3F⟩
  | .step12FF => ⟨6, 0x0C, 0x3F⟩
  | .step13FF => ⟨6, 0x0D, 0x3F⟩
  | .step14FF => ⟨6, 0x0E, 0x3F⟩
  | .step15FF => ⟨6, 0x0F, 0x3F⟩
  | .step16GG => ⟨6, 0x10, 0x3F⟩
  | .step17GG => ⟨6, 0x11, 0x3F⟩
  | .step18GG => ⟨6, 0x12, 0x3F⟩
  | .step19GG => ⟨6, 0x13, 0x3F⟩
  | .step20GG => ⟨6, 0x14, 0x3F⟩
  | .step21GG => ⟨6, 0x15, 0x3F⟩
  | .step22GG => ⟨6, 0x16, 0x3F⟩
  | .step23GG => ⟨6, 0x17, 0x3F⟩
  | .step24GG => ⟨6, 0x18, 0x3F⟩
  | .step25GG => ⟨6, 0x19, 0x3F⟩
  | .step26GG => ⟨6, 0x1A, 0x3F⟩
  | .step27GG => ⟨6, 0x1B, 0x3F⟩
  | .step28GG => ⟨6, 0x1C, 0x3F⟩
  | .step29GG => ⟨6, 0x1D, 0x3F⟩
  | .step30GG => ⟨6, 0x1E, 0x3F⟩
  | .step31GG => ⟨6, 0x1F, 0x3F⟩
  | .step32HH => ⟨6, 0x20, 0x3F⟩
  | .step33HH => ⟨6, 0x21, 0x3F⟩
  | .step34HH => ⟨6, 0x22, 0x3F⟩
  | .step35HH => ⟨6, 0x23, 0x3F⟩
  | .step36HH => ⟨6, 0x24, 0x3F⟩
  | .step37HH => ⟨6, 0x25, 0x3F⟩
  | .step38HH => ⟨6, 0x26, 0x3F⟩
  | .step39HH => ⟨6, 0x27, 0x3F⟩
  | .step40HH => ⟨6, 0x28, 0x3F⟩
  | .step41HH => ⟨6, 0x29, 0x3F⟩
  | .step42HH => ⟨6, 0x2A, 0x3F⟩
  | .step43HH => ⟨6, 0x2B, 0x3F⟩
  | .step44HH => ⟨6, 0x2C, 0x3F⟩
  | .step45HH => ⟨6, 0x2D, 0x3F⟩
  | .step46HH => ⟨6, 0x2E, 0x3F⟩
  | .step47HH => ⟨6, 0x2F, 0x3F⟩
  | .step48II => ⟨6, 0x30, 0x3F⟩
  | .step49II => ⟨6, 0x31, 0x3F⟩
  | .step50II => ⟨6, 0x32, 0x3F⟩
  | .step51II => ⟨6, 0x33, 0x3F⟩
  | .step52II => ⟨6, 0x34, 0x3F⟩
  | .step53II => ⟨6, 0x35, 0x3F⟩
  | .step54II => ⟨6, 0x36, 0x3F⟩
  | .step55II => ⟨6, 0x37, 0x3F⟩
  | .step56II => ⟨6, 0x38, 0x3F⟩
  | .step57II => ⟨6, 0x39, 0x3F⟩
  | .step58II => ⟨6, 0x3A, 0x3F⟩
  | .step59II => ⟨6, 0x3B, 0x3F⟩
  | .step60II => ⟨6, 0x3C, 0x3F⟩
  | .step61II => ⟨6, 0x3D, 0x3F⟩
  | .step62II => ⟨6, 0x3E, 0x3F⟩
  | .step63II => ⟨6, 0x3F, 0x3F⟩

/-- The bits of a code, numbered as the table numbers them, and how many there are. -/
def bits : Code → Nat × Nat
  | .command w => (16, w.toNat)
  | .rom k => (6, k.toNat)

/-- A well-formed instruction's code has the row's width and matches the row's pattern under its mask. -/
def Statement (i : Instr) : Prop :=
  i.wf → (bits (encode i)).1 = (row i).width ∧ (bits (encode i)).2 &&& (row i).mask = (row i).pattern

theorem nop : Statement .nop := fun _ => ⟨rfl, rfl⟩

theorem init : Statement .init := fun _ => ⟨rfl, rfl⟩

theorem update : ∀ imm8, Statement (.update imm8) := by unfold Statement; decide +kernel

theorem digest : Statement .digest := fun _ => ⟨rfl, rfl⟩

theorem rdhex : ∀ imm8, Statement (.rdhex imm8) := by unfold Statement; decide +kernel

theorem rddig : ∀ imm8, Statement (.rddig imm8) := by unfold Statement; decide +kernel

theorem rdstat : Statement .rdstat := fun _ => ⟨rfl, rfl⟩

theorem step00FF : Statement .step00FF := fun _ => ⟨rfl, rfl⟩

theorem step01FF : Statement .step01FF := fun _ => ⟨rfl, rfl⟩

theorem step02FF : Statement .step02FF := fun _ => ⟨rfl, rfl⟩

theorem step03FF : Statement .step03FF := fun _ => ⟨rfl, rfl⟩

theorem step04FF : Statement .step04FF := fun _ => ⟨rfl, rfl⟩

theorem step05FF : Statement .step05FF := fun _ => ⟨rfl, rfl⟩

theorem step06FF : Statement .step06FF := fun _ => ⟨rfl, rfl⟩

theorem step07FF : Statement .step07FF := fun _ => ⟨rfl, rfl⟩

theorem step08FF : Statement .step08FF := fun _ => ⟨rfl, rfl⟩

theorem step09FF : Statement .step09FF := fun _ => ⟨rfl, rfl⟩

theorem step10FF : Statement .step10FF := fun _ => ⟨rfl, rfl⟩

theorem step11FF : Statement .step11FF := fun _ => ⟨rfl, rfl⟩

theorem step12FF : Statement .step12FF := fun _ => ⟨rfl, rfl⟩

theorem step13FF : Statement .step13FF := fun _ => ⟨rfl, rfl⟩

theorem step14FF : Statement .step14FF := fun _ => ⟨rfl, rfl⟩

theorem step15FF : Statement .step15FF := fun _ => ⟨rfl, rfl⟩

theorem step16GG : Statement .step16GG := fun _ => ⟨rfl, rfl⟩

theorem step17GG : Statement .step17GG := fun _ => ⟨rfl, rfl⟩

theorem step18GG : Statement .step18GG := fun _ => ⟨rfl, rfl⟩

theorem step19GG : Statement .step19GG := fun _ => ⟨rfl, rfl⟩

theorem step20GG : Statement .step20GG := fun _ => ⟨rfl, rfl⟩

theorem step21GG : Statement .step21GG := fun _ => ⟨rfl, rfl⟩

theorem step22GG : Statement .step22GG := fun _ => ⟨rfl, rfl⟩

theorem step23GG : Statement .step23GG := fun _ => ⟨rfl, rfl⟩

theorem step24GG : Statement .step24GG := fun _ => ⟨rfl, rfl⟩

theorem step25GG : Statement .step25GG := fun _ => ⟨rfl, rfl⟩

theorem step26GG : Statement .step26GG := fun _ => ⟨rfl, rfl⟩

theorem step27GG : Statement .step27GG := fun _ => ⟨rfl, rfl⟩

theorem step28GG : Statement .step28GG := fun _ => ⟨rfl, rfl⟩

theorem step29GG : Statement .step29GG := fun _ => ⟨rfl, rfl⟩

theorem step30GG : Statement .step30GG := fun _ => ⟨rfl, rfl⟩

theorem step31GG : Statement .step31GG := fun _ => ⟨rfl, rfl⟩

theorem step32HH : Statement .step32HH := fun _ => ⟨rfl, rfl⟩

theorem step33HH : Statement .step33HH := fun _ => ⟨rfl, rfl⟩

theorem step34HH : Statement .step34HH := fun _ => ⟨rfl, rfl⟩

theorem step35HH : Statement .step35HH := fun _ => ⟨rfl, rfl⟩

theorem step36HH : Statement .step36HH := fun _ => ⟨rfl, rfl⟩

theorem step37HH : Statement .step37HH := fun _ => ⟨rfl, rfl⟩

theorem step38HH : Statement .step38HH := fun _ => ⟨rfl, rfl⟩

theorem step39HH : Statement .step39HH := fun _ => ⟨rfl, rfl⟩

theorem step40HH : Statement .step40HH := fun _ => ⟨rfl, rfl⟩

theorem step41HH : Statement .step41HH := fun _ => ⟨rfl, rfl⟩

theorem step42HH : Statement .step42HH := fun _ => ⟨rfl, rfl⟩

theorem step43HH : Statement .step43HH := fun _ => ⟨rfl, rfl⟩

theorem step44HH : Statement .step44HH := fun _ => ⟨rfl, rfl⟩

theorem step45HH : Statement .step45HH := fun _ => ⟨rfl, rfl⟩

theorem step46HH : Statement .step46HH := fun _ => ⟨rfl, rfl⟩

theorem step47HH : Statement .step47HH := fun _ => ⟨rfl, rfl⟩

theorem step48II : Statement .step48II := fun _ => ⟨rfl, rfl⟩

theorem step49II : Statement .step49II := fun _ => ⟨rfl, rfl⟩

theorem step50II : Statement .step50II := fun _ => ⟨rfl, rfl⟩

theorem step51II : Statement .step51II := fun _ => ⟨rfl, rfl⟩

theorem step52II : Statement .step52II := fun _ => ⟨rfl, rfl⟩

theorem step53II : Statement .step53II := fun _ => ⟨rfl, rfl⟩

theorem step54II : Statement .step54II := fun _ => ⟨rfl, rfl⟩

theorem step55II : Statement .step55II := fun _ => ⟨rfl, rfl⟩

theorem step56II : Statement .step56II := fun _ => ⟨rfl, rfl⟩

theorem step57II : Statement .step57II := fun _ => ⟨rfl, rfl⟩

theorem step58II : Statement .step58II := fun _ => ⟨rfl, rfl⟩

theorem step59II : Statement .step59II := fun _ => ⟨rfl, rfl⟩

theorem step60II : Statement .step60II := fun _ => ⟨rfl, rfl⟩

theorem step61II : Statement .step61II := fun _ => ⟨rfl, rfl⟩

theorem step62II : Statement .step62II := fun _ => ⟨rfl, rfl⟩

theorem step63II : Statement .step63II := fun _ => ⟨rfl, rfl⟩

end Sys2Proof.Laws.TableRow
end

