-- ==== Sys2Proof/Laws/Run.lean ====
section
/-! SUPPORT. Runs of the machine: one step first, two runs in a row, and the steps of a host that takes every response. -/
namespace Sys2Proof.Machine

/-- A run of any core whose first step goes on. -/
theorem coreRun_succ (M : Host.Core) (n : Nat) (s t : M.State) (h : M.step s = .next t) : M.run (n + 1) s = M.run n t := by
  rw [Host.Core.run, h]

/-- A run of a run, on any core. -/
theorem coreRun_add (M : Host.Core) (n m : Nat) (s t : M.State) (h : M.run n s = .next t) : M.run (n + m) s = M.run m t := by
  induction n generalizing s with
  | zero => rw [Host.Core.run] at h; cases h; rw [Nat.zero_add]
  | succ n ih =>
    rw [Host.Core.run] at h
    cases hu : M.step s with
    | next u => rw [hu] at h; rw [Nat.succ_add, coreRun_succ M _ s u hu]; exact ih u h
    | fault f => rw [hu] at h; cases h
    | refused r => rw [hu] at h; cases h

theorem run_zero (s : State) : Host.Core.run Sys2Proof.core 0 s = .next s := rfl

/-- A run whose first step goes on. -/
theorem run_succ {s t : State} (n : Nat) (h : step s = .next t) :
    Host.Core.run Sys2Proof.core (n + 1) s = Host.Core.run Sys2Proof.core n t :=
  coreRun_succ Sys2Proof.core n s t h

/-- A run of a run. -/
theorem run_add {s t : State} (n m : Nat) (h : Host.Core.run Sys2Proof.core n s = .next t) :
    Host.Core.run Sys2Proof.core (n + m) s = Host.Core.run Sys2Proof.core m t :=
  coreRun_add Sys2Proof.core n m s t h

/-- A command word accepted and its response taken: two steps (R61, R62). -/
theorem run_command_take {s t : State} {w : PortWord} {r : PortWord} {rest : List HostAction}
    (hh : s.host = .command w :: .take :: rest) (hs : s.seq = .idle) (hr : s.rsp = none)
    (hc : runCommand w { s with host := .take :: rest } = .next t) (ht : t.host = .take :: rest) (hts : t.seq = .idle)
    (htr : t.rsp = some r) :
    Host.Core.run Sys2Proof.core 2 s = .next { t with host := rest, rsp := none, taken := t.taken ++ [r] } := by
  have h1 : step s = .next t := by
    rcases step_cases s with ⟨_, h, -⟩ | ⟨-, h, -⟩ | ⟨-, h, -⟩ | ⟨_, -, h, -⟩ | ⟨w', rest', -, h, h'⟩
    · rw [hh] at h; cases h
    · rw [hs] at h; cases h
    · rw [hh] at h; cases h
    · rw [hh] at h; cases h
    · rw [hh] at h
      cases h
      rcases h' with ⟨h', -⟩ | ⟨-, h'⟩
      · exact absurd hr h'
      · rw [h', hc]
  have h2 : step t = .next { t with host := rest, rsp := none, taken := t.taken ++ [r] } := by
    unfold step engineStep
    simp only [ht, hts, takeResponse, htr]
  rw [run_succ 1 h1, run_succ 0 h2, run_zero]

end Sys2Proof.Machine
end

