-- ==== Sys2Proof/Tests/Slice0.lean ====
section
/-! SUPPORT. The model's own tests: expected values are those of 95_test_vectors.md and of the worked examples in the rules, or
words written out from the encoding tables. And for each obligation with hypotheses, states and operands that meet them. -/

namespace Sys2Proof.Tests

set_option Elab.async false

open Sys2Proof.Machine

/-- The outcome is a next state with a property. -/
def answers (o : Host.Outcome State Fault Refusal) (p : State → Bool) : Bool :=
  match o with
  | .next t => p t
  | .fault _ => false
  | .refused _ => false

/-- The state after `n` times `UPDATE v` from reset, for `n` at most 63 and a `v` that is not 0. -/
def filled (n : Nat) (v : Byte) : State :=
  { State.reset with
    len := BitVec.ofNat 6 n, cnt := BitVec.ofNat 64 (8 * n), buf := (List.range n).map (fun a => (a, v)) }

/-- After `UPDATES "abc"`. -/
def abc : State := { State.reset with len := 3, cnt := 24, buf := [(0, 0x61), (1, 0x62), (2, 0x63)] }

/-- After DIGEST of the empty message. -/
def emptyDone : State :=
  { State.reset with
    h := ⟨0xD98C1DD4, 0x04B2008F, 0x980980E9, 0x7E42F8EC⟩, cnt := 512, fin := true, buf := [(0, 0x80)] }

/-- Inside the Transform of the block of "abc", before the step at `i`, with working registers `q`. -/
def inBlock (i : BitVec 6) (q : Quad) : State :=
  { State.reset with pc := i, seq := .running, x := q, buf := [(0, 0x61), (1, 0x62), (2, 0x63), (3, 0x80), (56, 0x18)] }

/-! ## Well-formedness: one ill-formed term for each check -/

theorem test_rdhex_operand_32_is_ill_formed : (Instr.rdhex 0x20).wf = false := by decide +kernel
theorem test_rdhex_operand_31_is_well_formed : (Instr.rdhex 0x1F).wf = true := by decide +kernel
theorem test_rddig_operand_16_is_ill_formed : (Instr.rddig 0x10).wf = false := by decide
theorem test_rddig_operand_15_is_well_formed : (Instr.rddig 0x0F).wf = true := by decide

/-! ## Decoding: words written out bit by bit (R65, R67, R124; 95_test_vectors.md section 2.1) -/

theorem test_decode_nop : decodeCommand 0b0000000000000000 = .ok .nop := by decide +kernel
theorem test_decode_init : decodeCommand 0b0001000000000000 = .ok .init := by decide +kernel
theorem test_decode_update : decodeCommand 0b0010000010000001 = .ok (.update 0x81) := by decide +kernel
theorem test_decode_digest : decodeCommand 0b0011000000000000 = .ok .digest := by decide +kernel
theorem test_decode_rdhex : decodeCommand 0b0100000000010110 = .ok (.rdhex 22) := by decide +kernel
theorem test_decode_rddig : decodeCommand 0b0101000000001101 = .ok (.rddig 13) := by decide +kernel
theorem test_decode_rdstat : decodeCommand 0b0110000000000000 = .ok .rdstat := by decide +kernel
theorem test_decode_reserved_opcodes :
    decodeCommand 0x7000 = .error .reservedOpcode ∧
    decodeCommand 0x8000 = .error .reservedOpcode ∧
    decodeCommand 0xF000 = .error .reservedOpcode ∧
    decodeCommand 0xFFFF = .error .reservedOpcode :=
  ⟨rfl, rfl, rfl, rfl⟩
theorem test_decode_reserved_bits :
    decodeCommand 0x0100 = .error .reservedBits ∧
    decodeCommand 0x2100 = .error .reservedBits ∧
    decodeCommand 0x2F61 = .error .reservedBits ∧
    decodeCommand 0x6F00 = .error .reservedBits :=
  ⟨rfl, rfl, rfl, rfl⟩
theorem test_decode_operand_bits :
    decodeCommand 0x0001 = .error .operandBits ∧
    decodeCommand 0x1080 = .error .operandBits ∧
    decodeCommand 0x3001 = .error .operandBits ∧
    decodeCommand 0x4020 = .error .operandBits ∧
    decodeCommand 0x40FF = .error .operandBits ∧
    decodeCommand 0x5010 = .error .operandBits ∧
    decodeCommand 0x6001 = .error .operandBits :=
  ⟨rfl, rfl, rfl, rfl, rfl, rfl, rfl⟩


/-- The row of each round that its family's index bits name (R70): the entry at index `i`, for every `i`. -/
theorem test_decode_rom_first_and_last :
    decode (.rom 0b000000) = .ok .step00FF ∧ decode (.rom 0b001111) = .ok .step15FF ∧
    decode (.rom 0b010000) = .ok .step16GG ∧ decode (.rom 0b011111) = .ok .step31GG ∧
    decode (.rom 0b100000) = .ok .step32HH ∧ decode (.rom 0b101111) = .ok .step47HH ∧
    decode (.rom 0b110000) = .ok .step48II ∧ decode (.rom 0b111111) = .ok .step63II := by decide +kernel

theorem test_table_word_of_a_command : decodeTableWord 16 0x401F = some (.rdhex 31) := by decide +kernel
theorem test_table_word_of_a_rom_row : decodeTableWord 8 0x2A = some .step42HH := by decide +kernel
theorem test_table_word_refused : decodeTableWord 16 0x4020 = none := by decide +kernel

/-! ## Arithmetic (95_test_vectors.md sections 2.4 and 2.5) -/

theorem test_rotl32 :
    rotl32 0x80000000 1 = 0x00000001 ∧ rotl32 0x00000001 31 = 0x80000000 ∧ rotl32 0x12345678 4 = 0x23456781 ∧
    rotl32 0xD76AA4F7 7 = 0xB5527BEB := by decide
theorem test_fnF : fnF 0xF0F0F0F0 0xAAAAAAAA 0x55555555 = 0xA5A5A5A5 := by decide
theorem test_fnG : fnG 0xD6819C6A 0x5AA53F75 0x374943A7 = 0x5EA53C72 := by decide
theorem test_fnH : fnH 0xA2205F1F 0x1C31C384 0xAE7813DB = 0x10698F40 := by decide
theorem test_fnI : fnI 0xCA7D2DBD 0x68D84EA2 0x22A31F54 = 0xB7A5A31D := by decide
theorem test_message_word : msgWord [(0, 0x61), (1, 0x62), (2, 0x63), (3, 0x80)] 0 = 0x80636261 := by decide +kernel
theorem test_digest_bytes :
    [0, 3, 4, 15].map (dg ⟨0x01234567, 0x89ABCDEF, 0x0A0B0C0D, 0x000000F0⟩) = [0x67, 0x01, 0xEF, 0x00] := by decide
theorem test_hex_characters :
    [24, 25, 16, 17, 18, 19].map (hex ⟨0x01234567, 0x89ABCDEF, 0x0A0B0C0D, 0x000000F0⟩) =
      "f00d0c".toList.map (fun c => BitVec.ofNat 8 c.toNat) := by decide +kernel

/-! ## Memory: the canonical form -/

theorem test_write_zero_is_unlisted : Memory.write [(1, 0x61), (2, 0x62)] 1 0 = [(2, 0x62)] := by decide
theorem test_write_keeps_order : Memory.write [(1, 0x61), (5, 0x62)] 3 0x63 = [(1, 0x61), (3, 0x63), (5, 0x62)] := by decide

/-! ## One step of each command (95_test_vectors.md section 2.2, rows H1 to H22) -/

theorem test_nop_h1 : answers (exec .nop State.reset) (fun t => t = { State.reset with rsp := some 0 }) := by decide +kernel
theorem test_init_h4 : answers (exec .init abc) (fun t => t.cnt = 0 ∧ t.len = 0 ∧ t.h = Quad.iv) := by decide +kernel
theorem test_init_h17 :
    answers (exec .init { emptyDone with errIS := true }) (fun t => t.fin = false ∧ t.errIS = true ∧ t.cnt = 0) := by decide +kernel
theorem test_update_h3 :
    answers (exec (.update 0x61) State.reset) (fun t => t.buf = [(0, 0x61)] ∧ t.cnt = 8 ∧ t.len = 1 ∧ t.rsp = some 0) := by
  decide +kernel
theorem test_update_h21 :
    answers (exec (.update 0x61) (filled 63 0x61))
      (fun t => t.h = ⟨0x89D4FF56, 0x125CD962, 0x69CADE33, 0x0033E325⟩ ∧ t.cnt = 512 ∧ t.len = 0 ∧ t.pc = 0) := by
  decide +kernel
theorem test_digest_h5 :
    answers (exec .digest abc)
      (fun t => t.h = ⟨0x98500190, 0xB04FD23C, 0x7D3F96D6, 0x727FE128⟩ ∧ t.cnt = 512 ∧ t.len = 0 ∧ t.fin = true) := by
  decide +kernel
/-- Two blocks (section 2.3, L = 56). -/
theorem test_digest_two_blocks :
    answers (exec .digest (filled 56 0x61))
      (fun t => t.h = ⟨0xC78A0C3B, 0xB028F803, 0x70196C4C, 0x1872D106⟩ ∧ t.cnt = 1024) := by decide +kernel
theorem test_rdhex_h10 : answers (exec (.rdhex 31) emptyDone) (fun t => t.rsp = some 0x0065) := by decide +kernel
theorem test_rdhex_h13 : answers (exec (.rdhex 0) State.reset) (fun t => t.rsp = some 0x0100 ∧ t.errIS) := by decide +kernel
theorem test_rddig_h12 : answers (exec (.rddig 15) emptyDone) (fun t => t.rsp = some 0x007E) := by decide +kernel
theorem test_rddig_h14 : answers (exec (.rddig 0) State.reset) (fun t => t.rsp = some 0x0100 ∧ t.errIS) := by decide +kernel
theorem test_rdstat_h16 :
    answers (exec .rdstat { emptyDone with errIS := true }) (fun t => t.rsp = some 0x0003) := by decide +kernel
theorem test_rdstat_bits :
    answers (exec .rdstat { State.reset with errIC := true }) (fun t => t.rsp = some 0x0004) := by decide +kernel

/-! ## The whole step -/

theorem test_step_update : step (State.reset.withFetchWord 16 0x2061) = exec (.update 0x61) State.reset := rfl
theorem test_step_rom :
    answers (step (State.reset.withFetchWord 8 0x11)) (fun t => t.pc = 18 ∧ t.seq = .running) := by decide +kernel
/-- H19. -/
theorem test_step_illegal_h19 :
    answers (step (State.reset.withFetchWord 16 0x7000)) (fun t => t = { State.reset with errIC := true, rsp := some 0x0200 }) := by
  decide +kernel
/-- H20: IllegalCommand wins over InvalidState. -/
theorem test_step_illegal_h20 :
    answers (step (emptyDone.withFetchWord 16 0x2100)) (fun t => t.errIC ∧ t.errIS = false ∧ t.rsp = some 0x0200) := by decide +kernel

/-! ## One step of each ROM entry: the trace of "abc" (95_test_vectors.md section 2.4)

Row `k` of a list is the working registers before the round's step `k`, row `k + 1` those after it. -/

/-- Round 0 of the trace. -/
def traceFF : List Quad :=
  [⟨0x67452301, 0xEFCDAB89, 0x98BADCFE, 0x10325476⟩,
   ⟨0x10325476, 0xD6D117B4, 0xEFCDAB89, 0x98BADCFE⟩,
   ⟨0x98BADCFE, 0x344A8432, 0xD6D117B4, 0xEFCDAB89⟩,
   ⟨0xEFCDAB89, 0x2F6FBD72, 0x344A8432, 0xD6D117B4⟩,
   ⟨0xD6D117B4, 0x7AD956F2, 0x2F6FBD72, 0x344A8432⟩,
   ⟨0x344A8432, 0xC73741EF, 0x7AD956F2, 0x2F6FBD72⟩,
   ⟨0x2F6FBD72, 0x8BAC3051, 0xC73741EF, 0x7AD956F2⟩,
   ⟨0x7AD956F2, 0x207DC67B, 0x8BAC3051, 0xC73741EF⟩,
   ⟨0xC73741EF, 0x928D99F6, 0x207DC67B, 0x8BAC3051⟩,
   ⟨0x8BAC3051, 0x854B3712, 0x928D99F6, 0x207DC67B⟩,
   ⟨0x207DC67B, 0x74E2F284, 0x854B3712, 0x928D99F6⟩,
   ⟨0x928D99F6, 0x3020401C, 0x74E2F284, 0x854B3712⟩,
   ⟨0x854B3712, 0x5ED49596, 0x3020401C, 0x74E2F284⟩,
   ⟨0x74E2F284, 0xDDA9B9A6, 0x5ED49596, 0x3020401C⟩,
   ⟨0x3020401C, 0xA1051895, 0xDDA9B9A6, 0x5ED49596⟩,
   ⟨0x5ED49596, 0xE396856B, 0xA1051895, 0xDDA9B9A6⟩,
   ⟨0xDDA9B9A6, 0x72AFF2E0, 0xE396856B, 0xA1051895⟩]

theorem test_trace_ff : ∀ k : Fin 16,
    answers (exec (romInstrsFF.getD k.val .nop) (inBlock (BitVec.ofNat 6 (0 + k.val)) (traceFF.getD k.val Quad.iv)))
      (fun t => t.x = traceFF.getD (k.val + 1) Quad.iv ∧ t.pc = BitVec.ofNat 6 (0 + k.val) + 1) := by decide +kernel

/-- Round 1 of the trace. -/
def traceGG : List Quad :=
  [⟨0xDDA9B9A6, 0x72AFF2E0, 0xE396856B, 0xA1051895⟩,
   ⟨0xA1051895, 0x3E9E9126, 0x72AFF2E0, 0xE396856B⟩,
   ⟨0xE396856B, 0x4A1D804E, 0x3E9E9126, 0x72AFF2E0⟩,
   ⟨0x72AFF2E0, 0xE25E1652, 0x4A1D804E, 0x3E9E9126⟩,
   ⟨0x3E9E9126, 0xB5B204E4, 0xE25E1652, 0x4A1D804E⟩,
   ⟨0x4A1D804E, 0x59A8FFDA, 0xB5B204E4, 0xE25E1652⟩,
   ⟨0xE25E1652, 0x6D002F1E, 0x59A8FFDA, 0xB5B204E4⟩,
   ⟨0xB5B204E4, 0xABFC7920, 0x6D002F1E, 0x59A8FFDA⟩,
   ⟨0x59A8FFDA, 0x47092C07, 0xABFC7920, 0x6D002F1E⟩,
   ⟨0x6D002F1E, 0xB7F268CF, 0x47092C07, 0xABFC7920⟩,
   ⟨0xABFC7920, 0x09388EFF, 0xB7F268CF, 0x47092C07⟩,
   ⟨0x47092C07, 0xFE1623B1, 0x09388EFF, 0xB7F268CF⟩,
   ⟨0xB7F268CF, 0x786ACB8F, 0xFE1623B1, 0x09388EFF⟩,
   ⟨0x09388EFF, 0x790A77FB, 0x786ACB8F, 0xFE1623B1⟩,
   ⟨0xFE1623B1, 0x9F47E4F8, 0x790A77FB, 0x786ACB8F⟩,
   ⟨0x786ACB8F, 0xA62884AA, 0x9F47E4F8, 0x790A77FB⟩,
   ⟨0x790A77FB, 0x726342D3, 0xA62884AA, 0x9F47E4F8⟩]

theorem test_trace_gg : ∀ k : Fin 16,
    answers (exec (romInstrsGG.getD k.val .nop) (inBlock (BitVec.ofNat 6 (16 + k.val)) (traceGG.getD k.val Quad.iv)))
      (fun t => t.x = traceGG.getD (k.val + 1) Quad.iv ∧ t.pc = BitVec.ofNat 6 (16 + k.val) + 1) := by decide +kernel

/-- Round 2 of the trace. -/
def traceHH : List Quad :=
  [⟨0x790A77FB, 0x726342D3, 0xA62884AA, 0x9F47E4F8⟩,
   ⟨0x9F47E4F8, 0xB3707EBF, 0x726342D3, 0xA62884AA⟩,
   ⟨0xA62884AA, 0x60127B2E, 0xB3707EBF, 0x726342D3⟩,
   ⟨0x726342D3, 0x8D212FF5, 0x60127B2E, 0xB3707EBF⟩,
   ⟨0xB3707EBF, 0x3B0875C7, 0x8D212FF5, 0x60127B2E⟩,
   ⟨0x60127B2E, 0x21B117B9, 0x3B0875C7, 0x8D212FF5⟩,
   ⟨0x8D212FF5, 0x6E7429D5, 0x21B117B9, 0x3B0875C7⟩,
   ⟨0x3B0875C7, 0x3575227E, 0x6E7429D5, 0x21B117B9⟩,
   ⟨0x21B117B9, 0x5A2F5EA5, 0x3575227E, 0x6E7429D5⟩,
   ⟨0x6E7429D5, 0x11DE1779, 0x5A2F5EA5, 0x3575227E⟩,
   ⟨0x3575227E, 0xFADCAA38, 0x11DE1779, 0x5A2F5EA5⟩,
   ⟨0x5A2F5EA5, 0x31C465CA, 0xFADCAA38, 0x11DE1779⟩,
   ⟨0x11DE1779, 0x4C6124F4, 0x31C465CA, 0xFADCAA38⟩,
   ⟨0xFADCAA38, 0x7F2E507B, 0x4C6124F4, 0x31C465CA⟩,
   ⟨0x31C465CA, 0x99D9679D, 0x7F2E507B, 0x4C6124F4⟩,
   ⟨0x4C6124F4, 0x8FAE6399, 0x99D9679D, 0x7F2E507B⟩,
   ⟨0x7F2E507B, 0x7BEB9700, 0x8FAE6399, 0x99D9679D⟩]

theorem test_trace_hh : ∀ k : Fin 16,
    answers (exec (romInstrsHH.getD k.val .nop) (inBlock (BitVec.ofNat 6 (32 + k.val)) (traceHH.getD k.val Quad.iv)))
      (fun t => t.x = traceHH.getD (k.val + 1) Quad.iv ∧ t.pc = BitVec.ofNat 6 (32 + k.val) + 1) := by decide +kernel

/-- Round 3 of the trace. -/
def traceII : List Quad :=
  [⟨0x7F2E507B, 0x7BEB9700, 0x8FAE6399, 0x99D9679D⟩,
   ⟨0x99D9679D, 0x7B201DF8, 0x7BEB9700, 0x8FAE6399⟩,
   ⟨0x8FAE6399, 0xF4E8E96E, 0x7B201DF8, 0x7BEB9700⟩,
   ⟨0x7BEB9700, 0xB298CEFD, 0xF4E8E96E, 0x7B201DF8⟩,
   ⟨0x7B201DF8, 0x8BF025C4, 0xB298CEFD, 0xF4E8E96E⟩,
   ⟨0xF4E8E96E, 0x06CC5E8A, 0x8BF025C4, 0xB298CEFD⟩,
   ⟨0xB298CEFD, 0x5B0D97AA, 0x06CC5E8A, 0x8BF025C4⟩,
   ⟨0x8BF025C4, 0x7D632DD0, 0x5B0D97AA, 0x06CC5E8A⟩,
   ⟨0x06CC5E8A, 0x3BFA2C27, 0x7D632DD0, 0x5B0D97AA⟩,
   ⟨0x5B0D97AA, 0x7F81CC35, 0x3BFA2C27, 0x7D632DD0⟩,
   ⟨0x7D632DD0, 0x094454AB, 0x7F81CC35, 0x3BFA2C27⟩,
   ⟨0x3BFA2C27, 0x4F9DBE3F, 0x094454AB, 0x7F81CC35⟩,
   ⟨0x7F81CC35, 0x7327D604, 0x4F9DBE3F, 0x094454AB⟩,
   ⟨0x094454AB, 0x310ADE8F, 0x7327D604, 0x4F9DBE3F⟩,
   ⟨0x4F9DBE3F, 0x624D8CB2, 0x310ADE8F, 0x7327D604⟩,
   ⟨0x7327D604, 0xE484B9D8, 0x624D8CB2, 0x310ADE8F⟩,
   ⟨0x310ADE8F, 0xC08226B3, 0xE484B9D8, 0x624D8CB2⟩]

theorem test_trace_ii : ∀ k : Fin 16,
    answers (exec (romInstrsII.getD k.val .nop) (inBlock (BitVec.ofNat 6 (48 + k.val)) (traceII.getD k.val Quad.iv)))
      (fun t => t.x = traceII.getD (k.val + 1) Quad.iv ∧ t.pc = BitVec.ofNat 6 (48 + k.val) + 1) := by decide +kernel

/-- R125 on the last row of the trace. -/
theorem test_add_in :
    answers (step (inBlock 63 (traceII.getD 15 Quad.iv)))
      (fun t => t.h = ⟨0x98500190, 0xB04FD23C, 0x7D3F96D6, 0x727FE128⟩ ∧ t.pc = 0 ∧ t.seq = .idle) := by decide +kernel

/-! ## Witnesses: the hypotheses of the obligations can be met, each clause at the ends of its range -/

theorem witness_DecodeOfEncode :
    (Instr.rdhex 0x1F).wf ∧ (Instr.rddig 0x0F).wf ∧ (Instr.update 0xFF).wf ∧ Instr.step63II.wf := by decide +kernel
theorem witness_EncodeOfDecode :
    decode (.command 0x401F) = .ok (.rdhex 0x1F) ∧ decode (.rom 63) = .ok .step63II := by decide +kernel
theorem witness_PatternsSelectCommands :
    decodeCommand 0x401F = .ok (.rdhex ((31 : BitVec 5).setWidth 8)) ∧
    decodeCommand 0x500F = .ok (.rddig ((15 : BitVec 4).setWidth 8)) ∧
    decodeCommand 0x20FF = .ok (.update 0xFF) ∧ (∃ e, decodeCommand 0xFFFF = .error e) :=
  ⟨by decide +kernel, by decide +kernel, by decide +kernel, _, rfl⟩
theorem witness_IllegalWordClasses :
    decodeCommand 0x7000 = .error .reservedOpcode ∧ decodeCommand 0x6100 = .error .reservedBits ∧
    decodeCommand 0x6001 = .error .operandBits ∧ decodeCommand 0x4020 = .error .operandBits ∧
    decodeCommand 0x5010 = .error .operandBits := by decide +kernel
theorem witness_RoundFunctionsBitwise : (31 : Nat) < 32 := by decide
theorem witness_FFStepsRunAsSpecified :
    (⟨.step00FF, 0, 0, 7, 0xD76AA478⟩ : RomRow) ∈ rowsFF ∧ (⟨.step15FF, 15, 15, 22, 0x49B40821⟩ : RomRow) ∈ rowsFF := by
  simp [rowsFF]
theorem witness_GGStepsRunAsSpecified :
    (⟨.step16GG, 16, 1, 5, 0xF61E2562⟩ : RomRow) ∈ rowsGG ∧ (⟨.step31GG, 31, 12, 20, 0x8D2A4C8A⟩ : RomRow) ∈ rowsGG := by
  simp [rowsGG]
theorem witness_HHStepsRunAsSpecified :
    (⟨.step32HH, 32, 5, 4, 0xFFFA3942⟩ : RomRow) ∈ rowsHH ∧ (⟨.step47HH, 47, 2, 23, 0xC4AC5665⟩ : RomRow) ∈ rowsHH := by
  simp [rowsHH]
theorem witness_IIStepsRunAsSpecified :
    (⟨.step48II, 48, 0, 6, 0xF4292244⟩ : RomRow) ∈ rowsII ∧ (⟨.step63II, 63, 9, 21, 0xEB86D391⟩ : RomRow) ∈ rowsII := by
  simp [rowsII]
theorem witness_TransformIsItsSixtyFourSteps :
    (∀ rest, abc.host ≠ .reset :: rest) ∧ (∀ rest, ({ abc with host := [.take] } : State).host ≠ .reset :: rest) ∧
    (0 : Nat) ≤ 63 ∧ (63 : Nat) ≤ 63 := by simp [abc, State.reset]
theorem witness_NopAnswersOnly : (0x0F00 : PortWord).extractLsb' 12 4 = 0 ∧ (0x0F00 : PortWord) ≠ 0x0000 := by decide
theorem witness_InitResetsMessage :
    emptyDone.fin = true ∧ answers (exec .init emptyDone) (fun t => t.fin = false) := by decide +kernel
theorem witness_UpdateAbsorbsByte :
    State.reset.fin = false ∧ State.reset.len ≠ 63 ∧ (filled 62 0x61).fin = false ∧ (filled 62 0x61).len ≠ 63 := by decide
theorem witness_UpdateTransformsFullBlock : (filled 63 0x61).fin = false ∧ (filled 63 0x61).len = 63 := by decide
theorem witness_UpdateStoresOneByte : State.reset.fin = false ∧ (filled 63 0x61).fin = false ∧ (62 : Nat) ≠ 63 := by decide
theorem witness_DigestClosesOneBlock :
    State.reset.fin = false ∧ State.reset.len.toNat ≤ 55 ∧ (filled 55 0x61).fin = false ∧ (filled 55 0x61).len.toNat ≤ 55 := by
  decide
theorem witness_DigestClosesTwoBlocks :
    (filled 56 0x61).fin = false ∧ 56 ≤ (filled 56 0x61).len.toNat ∧ (filled 63 0x61).fin = false ∧
    56 ≤ (filled 63 0x61).len.toNat := by decide
theorem witness_PaddingLengthByResidue :
    (0 : BitVec 6).toNat ≤ 55 ∧ (55 : BitVec 6).toNat ≤ 55 ∧ 56 ≤ (56 : BitVec 6).toNat ∧ 56 ≤ (63 : BitVec 6).toNat := by decide
theorem witness_RdhexReadsCharacter : emptyDone.fin = true ∧ State.reset.fin = false ∧ 32 ≤ (0x20 : Byte).toNat ∧ (31 : BitVec 5).setWidth 8 = 0x1F#8 := by
  decide
theorem witness_RddigReadsByte : emptyDone.fin = true ∧ State.reset.fin = false ∧ 16 ≤ (0x10 : Byte).toNat ∧ (15 : BitVec 4).setWidth 8 = 0x0F#8 := by decide
theorem witness_InvalidStateIsRefused : emptyDone.fin = true ∧ abc.fin = false := by decide
theorem witness_IllFormedOperandIsIllegal :
    (Instr.rdhex 0x20).wf = false ∧ (Instr.rdhex 0xFF).wf = false ∧ (Instr.rddig 0x10).wf = false ∧
    (Instr.rddig 0xFF).wf = false := by decide +kernel

/-- A state in which the host presents a word next, with what it does after that. -/
def presents (w : PortWord) (s : State) : State := { s with host := [.command w, .take] }

theorem witness_IllegalWordIsAnswered :
    (presents 0x2100 emptyDone).host = .command 0x2100 :: [.take] ∧ (presents 0x2100 emptyDone).seq = .idle ∧
    (presents 0x2100 emptyDone).rsp = none ∧ decodeCommand 0x2100 = .error .reservedBits := by decide +kernel
theorem witness_LegalityTable :
    (Instr.rdhex 0x1F).isCommand ∧ (Instr.rdhex 0x1F).wf ∧ Instr.digest.isCommand ∧ Instr.digest.wf ∧ emptyDone.fin = true ∧
    Instr.digest ≠ .init := by decide +kernel
theorem witness_ErrorsArePrecise :
    Instr.digest.isCommand ∧ answers (exec .digest emptyDone) (fun t => t.rsp = some 0x0100) ∧
    (Instr.rdhex 0x20).isCommand ∧ answers (exec (.rdhex 0x20) emptyDone) (fun t => t.rsp = some 0x0200) ∧
    answers (exec .nop emptyDone) (fun t => t.rsp ≠ some 0x0100 ∧ t.rsp ≠ some 0x0200) := by decide +kernel
theorem witness_StickyBitsStay :
    (∀ rest, (presents 0x1000 { abc with errIS := true, errIC := true }).host ≠ .reset :: rest) ∧
    (presents 0x1000 { abc with errIS := true, errIC := true }).errIS = true ∧
    (presents 0x1000 { abc with errIS := true, errIC := true }).errIC = true := by simp [presents]
theorem witness_OnlyWriters :
    answers (exec (.update 0) (filled 63 0x61)) (fun t => t.h ≠ (filled 63 0x61).h ∧ t.x ≠ (filled 63 0x61).x) ∧
    answers (exec (.update 1) abc) (fun t => t.cnt ≠ abc.cnt ∧ t.buf ≠ abc.buf) ∧
    answers (exec .init emptyDone) (fun t => t.fin ≠ emptyDone.fin) := by decide +kernel
theorem witness_ResponseShape :
    (Instr.rdstat).isCommand ∧ answers (exec .rdstat emptyDone) (fun t => t.rsp = some 0x0001) := by decide +kernel
theorem witness_StepRunsAcceptedCommand :
    (presents 0x2061 abc).host = .command 0x2061 :: [.take] ∧ (presents 0x2061 abc).seq = .idle ∧
    (presents 0x2061 abc).rsp = none ∧ decodeCommand 0x2061 = .ok (.update 0x61) := by decide +kernel
theorem witness_StepRunsRomEntry :
    (inBlock 62 Quad.iv).seq = .running ∧ (∀ rest, (inBlock 62 Quad.iv).host ≠ .reset :: rest) ∧ (inBlock 62 Quad.iv).pc ≠ 63 ∧
    (inBlock 63 Quad.iv).seq = .running ∧ (∀ rest, (inBlock 63 Quad.iv).host ≠ .reset :: rest) ∧
    (inBlock 63 Quad.iv).pc = 63 := by simp [inBlock, State.reset]
theorem witness_HandshakeSteps :
    abc.seq = .idle ∧ abc.host = [] ∧
    (presents 0x0000 { abc with rsp := some 0 }).host = .command 0x0000 :: [.take] ∧
    (presents 0x0000 { abc with rsp := some 0 }).rsp = some 0 ∧
    ({ abc with host := [.take], rsp := some 0 } : State).host = .take :: [] ∧
    ({ abc with host := [.take] } : State).host = .take :: [] ∧ ({ abc with host := [.take] } : State).rsp = none := by decide
theorem witness_ResetFromAnyState :
    ({ inBlock 5 Quad.iv with host := [.reset, .take], rsp := some 0 } : State).host = .reset :: [.take] := by decide
theorem witness_StepKeepsBetweenCommands :
    BetweenCommands State.reset ∧ step State.reset = .next State.reset :=
  ⟨⟨rfl, rfl, by decide, by decide, by decide, by decide, fun r h => by cases h⟩, by simp only [step, engineStep, State.reset]⟩
/-- With a byte pending and a command to run. -/
theorem witness_StepKeepsBetweenCommands_running :
    BetweenCommands (presents 0x3000 abc) ∧ answers (step (presents 0x3000 abc)) (fun t => t.fin) :=
  ⟨⟨rfl, rfl, by decide, by decide, by decide, by decide, fun r h => by cases h⟩, by decide +kernel⟩
theorem witness_StepKeepsBufCanonical :
    Memory.wf (presents 0x2000 (filled 63 0x61)).buf ∧ answers (step (presents 0x2000 (filled 63 0x61))) (fun t => t.len = 0) := by
  decide +kernel
/-- The two states differ in a working register and in a cell of BUF at LEN. -/
theorem witness_UnreadStateNeverShows :
    (presents 0x3000 abc).seq = .idle ∧
    SameToHost (presents 0x3000 abc) (presents 0x3000 { abc with x := ⟨1, 2, 3, 4⟩, buf := abc.buf ++ [(3, 0x7F)] }) :=
  ⟨rfl, by constructor <;> first | rfl | decide +kernel⟩
theorem witness_CommandsIgnorePorts : Instr.digest.isCommand ∧ (Instr.rdhex 0).isCommand := by decide +kernel
theorem witness_MessageIsDigested :
    State.reset.h = Quad.iv ∧ State.reset.cnt = 0 ∧ State.reset.len = 0 ∧ State.reset.fin = false ∧
    (List.replicate 55 (0x61 : Byte)).length % 64 ≤ 55 ∧ 56 ≤ (List.replicate 56 (0x61 : Byte)).length % 64 := by decide
theorem witness_ChunksAndPausesDoNotMatter : (Instr.nop = .nop ∨ Instr.nop = .rdstat) ∧ abc.fin = false := by decide
theorem witness_HostReadsHexDigest :
    ({ emptyDone with host := hostScript (md5Words [0x61]) } : State).seq = .idle ∧
    ({ emptyDone with host := hostScript (md5Words [0x61]) } : State).rsp = none ∧
    ({ emptyDone with host := hostScript (md5Words [0x61]) } : State).host = hostScript (md5Words [0x61]) := by decide

end Sys2Proof.Tests
end

section
/-! SUPPORT. What a step, an accepted word and a host command do, one equation for each case, and all the ways a host
command can end. -/
namespace Sys2Proof.Machine

/-- Inside a Transform the ROM entry at `pc` runs, and the add-in follows entry 63 (R42, R110). -/
theorem step_of_running {s : State} (hr : ∀ rest, s.host ≠ .reset :: rest) (hs : s.seq = .running) :
    step s = .next (if s.pc = 63 then finishTransform (romStep s.pc s) else romStep s.pc s) := by
  rcases step_cases s with ⟨rest, hh, -⟩ | ⟨-, -, h⟩ | ⟨hi, -⟩ | ⟨_, hi, -⟩ | ⟨_, _, hi, -⟩
  · exact absurd hh (hr rest)
  · exact h
  all_goals cases hs.symm.trans hi

/-- `rst` comes before anything (R160, R163). -/
theorem step_of_reset {s : State} {rest : List HostAction} (hh : s.host = .reset :: rest) :
    step s = .next (hardReset { s with host := rest }) := by
  simp only [step, engineStep, hh]

/-- With no action of the host the engine waits (R154). -/
theorem step_of_no_action {s : State} (hs : s.seq = .idle) (hh : s.host = []) : step s = .next s := by
  simp only [step, engineStep, hs, hh]

/-- The host takes the response (R62). -/
theorem step_of_take {s : State} {rest : List HostAction} (hs : s.seq = .idle) (hh : s.host = .take :: rest) :
    step s = .next (takeResponse { s with host := rest }) := by
  simp only [step, engineStep, hs, hh]

/-- A word presented while a response waits stays presented (R61). -/
theorem step_of_not_ready {s : State} {w : PortWord} {rest : List HostAction} (hs : s.seq = .idle)
    (hh : s.host = .command w :: rest) (hr : s.rsp ≠ none) : step s = .next s := by
  simp [step, engineStep, hs, hh, cmdReady, hr]

/-- A word presented to an engine that is ready is accepted (R61, R80). -/
theorem step_of_accepted {s : State} {w : PortWord} {rest : List HostAction} (hs : s.seq = .idle)
    (hh : s.host = .command w :: rest) (hr : s.rsp = none) : step s = runCommand w { s with host := rest } := by
  simp [step, engineStep, hs, hh, cmdReady, hr]

theorem isCommand_of_decodeCommand {w : PortWord} {i : Instr} (h : decodeCommand w = .ok i) : i.isCommand := by
  rcases decodeCommand_ok_cases h with ⟨-, rfl⟩ | ⟨-, rfl⟩ | ⟨_, -, rfl⟩ | ⟨-, rfl⟩ | ⟨_, -, rfl, -⟩ | ⟨_, -, rfl, -⟩ |
    ⟨-, rfl⟩ <;> rfl

theorem runCommand_of_error {w : PortWord} {e : Illegal} (h : decodeCommand w = .error e) (s : State) :
    runCommand w s = .next (raise .illegalCommand s) := by
  rw [runCommand, h]

theorem runCommand_of_ok {w : PortWord} {i : Instr} (h : decodeCommand w = .ok i) (s : State) :
    runCommand w s = .next (commandResult i s) := by
  rw [runCommand, h]
  exact exec_of_isCommand (isCommand_of_decodeCommand h) s

/-- A read command raises an error or answers. -/
theorem readView_ways {w : Nat} (k : Option (BitVec w)) (view : BitVec w → Byte) (s : State) :
    (∃ e, readView k view s = raise e s) ∨ ∃ d, readView k view s = respond d s := by
  rcases readView_cases k view s with h | ⟨-, h⟩ | ⟨-, v, h⟩
  · exact .inl ⟨_, h⟩
  · exact .inl ⟨_, h⟩
  · exact .inr ⟨v, h⟩

/-- How a host command can end: an error; an answer and nothing else; INIT; the absorption of UPDATE or of DIGEST, both with
FIN = 0 only. -/
theorem commandResult_ways {i : Instr} (hc : i.isCommand) (s : State) :
    (∃ e, commandResult i s = raise e s) ∨ (∃ d, commandResult i s = respond d s) ∨
    (i = .init ∧ commandResult i s = respond 0 { s with h := Quad.iv, cnt := 0, len := 0, fin := false }) ∨
    (s.fin = false ∧ ∃ b, i = .update b ∧ commandResult i s = respond 0 (absorb b s)) ∨
    (s.fin = false ∧ i = .digest ∧
      commandResult i s = respond 0 { absorbAll (finalBytes s.len s.cnt) s with fin := true }) := by
  cases i with
  | nop | rdstat => exact .inr (.inl ⟨_, rfl⟩)
  | init => exact .inr (.inr (.inl ⟨rfl, rfl⟩))
  | update b =>
    cases hf : s.fin
    · exact .inr (.inr (.inr (.inl ⟨rfl, b, rfl, by simp [commandResult, hf]⟩)))
    · exact .inl ⟨.invalidState, by simp [commandResult, hf]⟩
  | digest =>
    cases hf : s.fin
    · exact .inr (.inr (.inr (.inr ⟨rfl, rfl, by simp [commandResult, hf]⟩)))
    · exact .inl ⟨.invalidState, by simp [commandResult, hf]⟩
  | rdhex k => exact (readView_ways (hexIndex k) (hex s.h) s).imp_right .inl
  | rddig k => exact (readView_ways (digIndex k) (dg s.h) s).imp_right .inl
  | _ => simp [Instr.isCommand, encode] at hc

/-- LEN counts modulo 64, at the byte that fills the block too (R26, R84). -/
theorem absorb_len (b : Byte) (s : State) : (absorb b s).len = s.len + 1 := by
  by_cases h63 : s.len = 63
  · rw [absorb_of_eq b s h63, h63]; rfl
  · rw [absorb_of_ne b s h63]

/-- CNT counts the bits (R24, R84). -/
theorem absorb_cnt (b : Byte) (s : State) : (absorb b s).cnt = s.cnt + 8 := absorbAll_cnt [b] s

/-- An absorption leaves `pc` at rest (R23). -/
theorem absorb_pc (b : Byte) (s : State) (h : s.pc = 0) : (absorb b s).pc = 0 := by
  by_cases h63 : s.len = 63
  · rw [absorb_of_eq b s h63]
  · rw [absorb_of_ne b s h63]; exact h

end Sys2Proof.Machine
end

section
/-! SUPPORT. Who writes the registers (10_state.md R21 to R28), and the step inside a Transform. -/
namespace Sys2Proof.Machine

/-- The sticky bits that are set in `s` are set in `t`. -/
def StickyKept (s t : State) : Prop := (s.errIS = true → t.errIS = true) ∧ (s.errIC = true → t.errIC = true)

theorem stickyKept_of_eq {s t : State} (h1 : t.errIS = s.errIS) (h2 : t.errIC = s.errIC) : StickyKept s t :=
  ⟨fun h => h1.trans h, fun h => h2.trans h⟩

theorem stickyKept_raise (e : Cause) (s : State) : StickyKept s (raise e s) := by
  cases e
  · exact ⟨fun _ => rfl, id⟩
  · exact ⟨id, fun _ => rfl⟩

theorem stickyKept_commandResult {i : Instr} (hc : i.isCommand) (s : State) : StickyKept s (commandResult i s) := by
  rcases commandResult_cases hc s with ⟨d, -, h1, h2⟩ | h | h
  · exact stickyKept_of_eq h1 h2
  · exact h ▸ stickyKept_raise .invalidState s
  · exact h ▸ stickyKept_raise .illegalCommand s

/-- Settles O32: by cases on the step; only `raise` writes a sticky bit, and it sets it. -/
theorem stickyBitsStay : Obligations.StickyBitsStay := by
  unfold Obligations.StickyBitsStay
  intro s hr
  suffices ∃ t, step s = .next t ∧ StickyKept s t from this
  rcases step_cases s with ⟨rest, hh, -⟩ | ⟨-, -, h⟩ | ⟨-, -, h⟩ | ⟨rest, -, -, h⟩ | ⟨w, rest, -, -, ⟨-, h⟩ | ⟨-, h⟩⟩
  · exact absurd hh (hr rest)
  · refine ⟨_, h, stickyKept_of_eq ?_ ?_⟩ <;> split <;> simp [romStep_eq]
  · exact ⟨_, h, stickyKept_of_eq rfl rfl⟩
  · exact ⟨_, h, stickyKept_of_eq (takeResponse_errIS _) (takeResponse_errIC _)⟩
  · exact ⟨_, h, stickyKept_of_eq rfl rfl⟩
  · rcases runCommand_cases w { s with host := rest } with ⟨_, -, hw⟩ | ⟨i, -, hc, -, hw⟩
    · exact ⟨_, h.trans hw, stickyKept_raise .illegalCommand { s with host := rest }⟩
    · exact ⟨_, h.trans hw, stickyKept_commandResult hc { s with host := rest }⟩

/-- Settles O33: a ROM step writes `x` and `pc` only, and a host command by cases on how it ends. -/
theorem onlyWriters : Obligations.OnlyWriters := by
  unfold Obligations.OnlyWriters
  intro i s
  rcases exec_cases i s with ⟨hc, h⟩ | ⟨hc, k, -, h⟩
  · refine ⟨_, h, ?_⟩
    rcases commandResult_ways hc s with ⟨e, hw⟩ | ⟨d, hw⟩ | ⟨rfl, hw⟩ | ⟨hf, b, rfl, hw⟩ | ⟨hf, rfl, hw⟩
    · simp [hw]
    · simp [hw]
    · simp [hw]
    · obtain ⟨hfin, -, -, -, hhost, htaken⟩ := absorb_frame b s
      by_cases h63 : s.len = 63
      · simp [hw, hf, h63, hfin, hhost, htaken]
      · simp [hw, hf, absorb_of_ne b s h63]
    · obtain ⟨-, -, -, -, hhost, htaken⟩ := absorbAll_frame (finalBytes s.len s.cnt) s
      simp [hw, hf, hhost, htaken]
  · exact ⟨_, h, by simp [hc, romStep_eq]⟩

/-- Settles O36: the step of a running sequencer, before entry 63 and at it. -/
theorem stepRunsRomEntry : Obligations.StepRunsRomEntry := by
  unfold Obligations.StepRunsRomEntry
  intro s hs hr
  rw [step_of_running hr hs]
  refine ⟨fun h => ?_, fun h => ⟨_, exec_decodeStep s.pc s, ?_⟩⟩
  · rw [if_neg h, exec_decodeStep]
  · rw [if_pos h]; rfl

end Sys2Proof.Machine
end

section
/-! SUPPORT. The invariants between commands (10_state.md R33): they hold at reset, and every operation of a step keeps
them. -/
namespace Sys2Proof.Machine

/-- Settles O41: each invariant at the values of R161. -/
theorem resetIsBetweenCommands : Obligations.ResetIsBetweenCommands where
  seq_idle := rfl
  pc_zero := rfl
  len_eq := rfl
  cnt_bytes := rfl
  finalized := nofun
  buf_wf := Memory.wf_reset
  rsp_legal := nofun

/-- What the host does next and has taken does not enter the invariants. -/
theorem betweenCommands_ports {s : State} (h : BetweenCommands s) (hs : List HostAction) (tk : List PortWord) :
    BetweenCommands { s with host := hs, taken := tk } :=
  { h with }

theorem betweenCommands_takeResponse {s : State} (h : BetweenCommands s) : BetweenCommands (takeResponse s) where
  seq_idle := by simpa using h.seq_idle
  pc_zero := by simpa using h.pc_zero
  len_eq := by simpa using h.len_eq
  cnt_bytes := by simpa using h.cnt_bytes
  finalized := by simpa using h.finalized
  buf_wf := by simpa using h.buf_wf
  rsp_legal := by simp

theorem responseLegal_ok (d : Byte) : ResponseLegal (responseWord 0 d) := by
  refine .inl ?_
  rw [responseWord_ok, BitVec.toNat_append]
  simpa using Nat.le_of_lt_succ d.isLt

theorem betweenCommands_respond {s : State} (h : BetweenCommands s) (d : Byte) : BetweenCommands (respond d s) :=
  { h with rsp_legal := by simpa using responseLegal_ok d }

theorem betweenCommands_raise {s : State} (h : BetweenCommands s) (e : Cause) : BetweenCommands (raise e s) := by
  cases e
  · exact { h with rsp_legal := by rintro _ ⟨⟩; exact .inr (.inl responseWord_invalidState) }
  · exact { h with rsp_legal := by rintro _ ⟨⟩; exact .inr (.inr responseWord_illegalCommand) }

theorem betweenCommands_init {s : State} (h : BetweenCommands s) :
    BetweenCommands { s with h := Quad.iv, cnt := 0, len := 0, fin := false } :=
  { h with len_eq := by simp, cnt_bytes := by simp, finalized := nofun }

/-- Eight more bits are one more byte in CNT[8:3], modulo 64, and none in CNT[2:0]. -/
theorem count_add_eight (c : BitVec 64) :
    (c + 8).extractLsb' 3 6 = c.extractLsb' 3 6 + 1 ∧ (c + 8).extractLsb' 0 3 = c.extractLsb' 0 3 := by
  constructor <;> apply BitVec.eq_of_toNat_eq
  · simp [BitVec.extractLsb'_toNat, Nat.shiftRight_eq_div_pow]
    omega
  · simp [BitVec.extractLsb'_toNat]

theorem betweenCommands_absorb {s : State} (h : BetweenCommands s) (hf : s.fin = false) (b : Byte) :
    BetweenCommands (absorb b s) := by
  obtain ⟨hfin, -, -, hrsp, -⟩ := absorb_frame b s
  obtain ⟨hlen, hbytes⟩ := count_add_eight s.cnt
  exact {
    seq_idle := absorb_seq b s h.seq_idle
    pc_zero := absorb_pc b s h.pc_zero
    len_eq := by rw [absorb_len, absorb_cnt, hlen, h.len_eq]
    cnt_bytes := by rw [absorb_cnt, hbytes, h.cnt_bytes]
    finalized := by simp [hfin, hf]
    buf_wf := absorb_wf b s h.buf_wf
    rsp_legal := hrsp ▸ h.rsp_legal }

theorem betweenCommands_absorbAll {s : State} (h : BetweenCommands s) (hf : s.fin = false) (bs : List Byte) :
    BetweenCommands (absorbAll bs s) :=
  (absorbAll_invariant (P := fun s => BetweenCommands s ∧ s.fin = false)
    (fun b s ⟨h, hf⟩ => ⟨betweenCommands_absorb h hf b, (absorb_frame b s).1.trans hf⟩) bs s ⟨h, hf⟩).1

/-- The padding and the trailer fill the last block (R104). -/
theorem absorbAll_finalBytes_len (s : State) (t : BitVec 64) : (absorbAll (finalBytes s.len t) s).len = 0 := by
  apply BitVec.eq_of_toNat_eq
  obtain ⟨-, hlen, -⟩ := absorbAll_blocks (finalBytes s.len t) s
  have := s.len.isLt
  rw [hlen, finalBytes_length, padLength]
  change _ = 0
  split <;> omega

/-- With an empty buffer CNT is a multiple of 512 (R33 I2, I4). -/
theorem cnt_of_len_zero {s : State} (h : BetweenCommands s) (h0 : s.len = 0) : s.cnt.toNat % 512 = 0 := by
  have hlen : s.cnt.toNat >>> 3 % 2 ^ 6 = 0 := congrArg BitVec.toNat (h.len_eq.symm.trans h0)
  have hbytes : s.cnt.toNat >>> 0 % 2 ^ 3 = 0 := congrArg BitVec.toNat h.cnt_bytes
  rw [Nat.shiftRight_eq_div_pow] at hlen hbytes
  omega

theorem betweenCommands_commandResult {i : Instr} (hc : i.isCommand) {s : State} (h : BetweenCommands s) :
    BetweenCommands (commandResult i s) := by
  rcases commandResult_ways hc s with ⟨e, hw⟩ | ⟨d, hw⟩ | ⟨-, hw⟩ | ⟨hf, b, -, hw⟩ | ⟨hf, -, hw⟩ <;> rw [hw]
  · exact betweenCommands_raise h e
  · exact betweenCommands_respond h d
  · exact betweenCommands_respond (betweenCommands_init h) 0
  · exact betweenCommands_respond (betweenCommands_absorb h hf b) 0
  · have hall := betweenCommands_absorbAll h hf (finalBytes s.len s.cnt)
    have hlen := absorbAll_finalBytes_len s s.cnt
    have hcnt := cnt_of_len_zero hall hlen
    have hdone : BetweenCommands { absorbAll (finalBytes s.len s.cnt) s with fin := true } :=
      { hall with finalized := fun _ => ⟨hlen, hcnt⟩ }
    exact betweenCommands_respond hdone 0

/-- Settles O42: by cases on the step, each operation keeping the invariants. -/
theorem stepKeepsBetweenCommands : Obligations.StepKeepsBetweenCommands := by
  unfold Obligations.StepKeepsBetweenCommands
  intro s t hb ht
  have hhost (rest : List HostAction) : BetweenCommands { s with host := rest } := betweenCommands_ports hb rest s.taken
  suffices ∃ u, step s = .next u ∧ BetweenCommands u by
    obtain ⟨u, hu, hbu⟩ := this
    cases hu.symm.trans ht
    exact hbu
  rcases step_cases s with ⟨rest, -, h⟩ | ⟨-, hs, -⟩ | ⟨-, -, h⟩ | ⟨rest, -, -, h⟩ | ⟨w, rest, -, -, ⟨-, h⟩ | ⟨-, h⟩⟩
  · exact ⟨_, h, betweenCommands_ports resetIsBetweenCommands rest s.taken⟩
  · cases hs.symm.trans hb.seq_idle
  · exact ⟨_, h, hb⟩
  · exact ⟨_, h, betweenCommands_takeResponse (hhost rest)⟩
  · exact ⟨_, h, hb⟩
  · rcases runCommand_cases w { s with host := rest } with ⟨_, -, hw⟩ | ⟨i, -, hc, -, hw⟩
    · exact ⟨_, h.trans hw, betweenCommands_raise (hhost rest) .illegalCommand⟩
    · exact ⟨_, h.trans hw, betweenCommands_commandResult hc (hhost rest)⟩

end Sys2Proof.Machine
end

section
/-! SUPPORT. `x` and the cells of BUF at LEN and above never show (R22, R25, R170): every operation of a step takes two states
that a host cannot tell apart to two such states. -/
namespace Sys2Proof.Machine

variable {s t : State}

theorem sameToHost_host (h : SameToHost s t) (rest : List HostAction) :
    SameToHost { s with host := rest } { t with host := rest } :=
  { h with host_eq := rfl }

theorem sameToHost_refl (s : State) : SameToHost s s :=
  ⟨rfl, rfl, rfl, rfl, rfl, rfl, rfl, rfl, rfl, rfl, rfl, fun _ _ => rfl⟩

/-- Reset leaves nothing of the difference (R161). -/
theorem sameToHost_hardReset (h : SameToHost s t) : SameToHost (hardReset s) (hardReset t) := by
  rw [hardReset, hardReset, h.host_eq, h.taken_eq]
  exact sameToHost_refl _

theorem sameToHost_takeResponse (h : SameToHost s t) : SameToHost (takeResponse s) (takeResponse t) := by
  unfold takeResponse
  rw [← h.rsp_eq]
  split
  · next r _ => exact { h with rsp_eq := rfl, taken_eq := congrArg (· ++ [r]) h.taken_eq }
  · exact h

theorem sameToHost_respond (h : SameToHost s t) (d : Byte) : SameToHost (respond d s) (respond d t) :=
  { h with rsp_eq := rfl }

theorem sameToHost_raise (h : SameToHost s t) (e : Cause) : SameToHost (raise e s) (raise e t) := by
  cases e
  · exact { h with errIS_eq := rfl, rsp_eq := rfl }
  · exact { h with errIC_eq := rfl, rsp_eq := rfl }

theorem sameToHost_init (h : SameToHost s t) :
    SameToHost { s with h := Quad.iv, cnt := 0, len := 0, fin := false }
      { t with h := Quad.iv, cnt := 0, len := 0, fin := false } :=
  { h with h_eq := rfl, cnt_eq := rfl, len_eq := rfl, fin_eq := rfl, pending_eq := nofun }

/-- A byte that fills the block makes the same block of the two, of 63 pending bytes and itself; any other joins the pending
ones. -/
theorem sameToHost_absorb (h : SameToHost s t) (b : Byte) : SameToHost (absorb b s) (absorb b t) := by
  by_cases h63 : s.len = 63
  · have hpending : (List.range 63).map (Memory.read s.buf) = (List.range 63).map (Memory.read t.buf) :=
      List.map_congr_left fun a ha => h.pending_eq a (by rw [h63]; exact List.mem_range.mp ha)
    rw [absorb_of_eq b s h63, absorb_of_eq b t (h.len_eq ▸ h63), hpending, h.h_eq, h.cnt_eq]
    exact { h with h_eq := rfl, pc_eq := rfl, cnt_eq := rfl, len_eq := rfl, seq_eq := rfl, pending_eq := nofun }
  · rw [absorb_of_ne b s h63, absorb_of_ne b t (h.len_eq ▸ h63), ← h.len_eq, ← h.cnt_eq]
    refine { h with cnt_eq := rfl, len_eq := rfl, pending_eq := fun a ha => ?_ }
    have hle : a ≤ s.len.toNat := by
      simp only [BitVec.toNat_add] at ha
      exact Nat.lt_succ_iff.mp (ha.trans_le (Nat.mod_le _ _))
    simp only [Memory.read_write]
    split
    · rfl
    · exact h.pending_eq a (by omega)

theorem sameToHost_absorbAll (h : SameToHost s t) (bs : List Byte) : SameToHost (absorbAll bs s) (absorbAll bs t) := by
  induction bs generalizing s t with
  | nil => exact h
  | cons b bs ih => exact ih (sameToHost_absorb h b)

theorem sameToHost_readView {w : Nat} (h : SameToHost s t) (k : Option (BitVec w)) (view : BitVec w → Byte) :
    SameToHost (readView k view s) (readView k view t) := by
  cases k with
  | none => exact sameToHost_raise h .illegalCommand
  | some k =>
    simp only [readView, ← h.fin_eq]
    split
    · exact sameToHost_respond h (view k)
    · exact sameToHost_raise h .invalidState

theorem sameToHost_commandResult {i : Instr} (hc : i.isCommand) (h : SameToHost s t) :
    SameToHost (commandResult i s) (commandResult i t) := by
  cases i with
  | nop => exact sameToHost_respond h 0
  | init => exact sameToHost_respond (sameToHost_init h) 0
  | update b =>
    simp only [commandResult, ← h.fin_eq]
    split
    · exact sameToHost_raise h .invalidState
    · exact sameToHost_respond (sameToHost_absorb h b) 0
  | digest =>
    simp only [commandResult, ← h.fin_eq, ← h.len_eq, ← h.cnt_eq]
    split
    · exact sameToHost_raise h .invalidState
    · have hdone : SameToHost { absorbAll (finalBytes s.len s.cnt) s with fin := true }
          { absorbAll (finalBytes s.len s.cnt) t with fin := true } :=
        { sameToHost_absorbAll h (finalBytes s.len s.cnt) with fin_eq := rfl }
      exact sameToHost_respond hdone 0
  | rdhex k => rw [commandResult, commandResult, ← h.h_eq]; exact sameToHost_readView h (hexIndex k) (hex s.h)
  | rddig k => rw [commandResult, commandResult, ← h.h_eq]; exact sameToHost_readView h (digIndex k) (dg s.h)
  | rdstat =>
    have hstatus : statusReg s = statusReg t := by rw [statusReg, statusReg, h.errIC_eq, h.errIS_eq, h.fin_eq]
    rw [commandResult, commandResult, ← hstatus]
    exact sameToHost_respond h (statusReg s)
  | _ => simp [Instr.isCommand, encode] at hc

/-- No host command leaves the sequencer inside a Transform. -/
theorem commandResult_seq {i : Instr} (hc : i.isCommand) (hs : s.seq = .idle) : (commandResult i s).seq = .idle := by
  rcases commandResult_ways hc s with ⟨e, hw⟩ | ⟨d, hw⟩ | ⟨-, hw⟩ | ⟨-, b, -, hw⟩ | ⟨-, -, hw⟩ <;> rw [hw]
  · rw [raise_seq, hs]
  · exact hs
  · exact hs
  · exact absorb_seq b s hs
  · exact absorbAll_invariant (P := fun s => s.seq = .idle) absorb_seq (finalBytes s.len s.cnt) s hs

theorem sameToHost_runCommand (w : PortWord) (hs : s.seq = .idle) (h : SameToHost s t) :
    ∃ s' t', runCommand w s = .next s' ∧ runCommand w t = .next t' ∧ s'.seq = .idle ∧ SameToHost s' t' := by
  cases hd : decodeCommand w with
  | error e => exact ⟨_, _, runCommand_of_error hd s, runCommand_of_error hd t, hs, sameToHost_raise h .illegalCommand⟩
  | ok i =>
    have hc := isCommand_of_decodeCommand hd
    exact ⟨_, _, runCommand_of_ok hd s, runCommand_of_ok hd t, commandResult_seq hc hs, sameToHost_commandResult hc h⟩

/-- Settles O44: the two states take the same case of the step, and each operation keeps them alike. -/
theorem unreadStateNeverShows : Obligations.UnreadStateNeverShows := by
  unfold Obligations.UnreadStateNeverShows
  intro s t hs h
  have hst : t.seq = .idle := h.seq_eq ▸ hs
  rcases step_cases s with ⟨rest, hh, e⟩ | ⟨-, hrun, -⟩ | ⟨-, hh, e⟩ | ⟨rest, -, hh, e⟩ |
    ⟨w, rest, -, hh, ⟨hr, e⟩ | ⟨hr, e⟩⟩
  · exact ⟨_, _, e, step_of_reset (h.host_eq ▸ hh), rfl, sameToHost_hardReset (sameToHost_host h rest)⟩
  · cases hrun.symm.trans hs
  · exact ⟨_, _, e, step_of_no_action hst (h.host_eq ▸ hh), hs, h⟩
  · exact ⟨_, _, e, step_of_take hst (h.host_eq ▸ hh), by simpa using hs, sameToHost_takeResponse (sameToHost_host h rest)⟩
  · exact ⟨_, _, e, step_of_not_ready hst (h.host_eq ▸ hh) (h.rsp_eq ▸ hr), hs, h⟩
  · rw [e, step_of_accepted hst (h.host_eq ▸ hh) (h.rsp_eq ▸ hr)]
    exact sameToHost_runCommand w hs (sameToHost_host h rest)

end Sys2Proof.Machine
end

section
/-! SUPPORT. The canonical form of BUF (20_memory.md R40) through every step, and a host command's independence of the ports
(R51, R167). -/
namespace Sys2Proof.Machine

theorem romStep_buf (k : BitVec 6) (s : State) : (romStep k s).buf = s.buf := by rw [romStep_eq]

/-- Only UPDATE and DIGEST write BUF, byte by byte through `Absorb` (R25, R84). -/
theorem commandResult_wf {i : Instr} (hc : i.isCommand) {s : State} (h : Memory.wf s.buf) :
    Memory.wf (commandResult i s).buf := by
  rcases commandResult_ways hc s with ⟨e, hw⟩ | ⟨d, hw⟩ | ⟨-, hw⟩ | ⟨-, b, -, hw⟩ | ⟨-, -, hw⟩ <;> rw [hw]
  · rw [raise_buf]; exact h
  · exact h
  · exact h
  · exact absorb_wf b s h
  · exact absorbAll_invariant (P := fun s => Memory.wf s.buf) absorb_wf (finalBytes s.len s.cnt) s h

theorem runCommand_wf (w : PortWord) {s : State} (h : Memory.wf s.buf) :
    ∃ t, runCommand w s = .next t ∧ Memory.wf t.buf := by
  cases hd : decodeCommand w with
  | error e => exact ⟨_, runCommand_of_error hd s, h⟩
  | ok i => exact ⟨_, runCommand_of_ok hd s, commandResult_wf (isCommand_of_decodeCommand hd) h⟩

/-- Settles O43: by cases on the step; reset empties BUF, an accepted command writes it below 64 only, and no other step
touches it. -/
theorem stepKeepsBufCanonical : Obligations.StepKeepsBufCanonical := by
  unfold Obligations.StepKeepsBufCanonical
  intro s t hb ht
  suffices ∃ u, step s = .next u ∧ Memory.wf u.buf by
    obtain ⟨u, hu, hbu⟩ := this
    cases hu.symm.trans ht
    exact hbu
  rcases step_cases s with ⟨rest, -, h⟩ | ⟨-, -, h⟩ | ⟨-, -, h⟩ | ⟨rest, -, -, h⟩ | ⟨w, rest, -, -, ⟨-, h⟩ | ⟨-, h⟩⟩
  · exact ⟨_, h, Memory.wf_reset⟩
  · refine ⟨_, h, ?_⟩
    split
    · rw [finishTransform_buf, romStep_buf]; exact hb
    · rw [romStep_buf]; exact hb
  · exact ⟨_, h, hb⟩
  · refine ⟨_, h, ?_⟩
    rw [takeResponse_buf]
    exact hb
  · exact ⟨_, h, hb⟩
  · rw [h]
    exact runCommand_wf w hb

section Ports
variable (s : State) (r : Option PortWord) (hs : List HostAction) (tk : List PortWord)

/-- An answer overwrites the response channel and leaves the host's own fields. -/
theorem respond_ports (d : Byte) :
    respond d { s with rsp := r, host := hs, taken := tk } = { respond d s with host := hs, taken := tk } := rfl

theorem raise_ports (e : Cause) :
    raise e { s with rsp := r, host := hs, taken := tk } = { raise e s with host := hs, taken := tk } := by
  cases e <;> rfl

theorem readView_ports {w : Nat} (k : Option (BitVec w)) (view : BitVec w → Byte) :
    readView k view { s with rsp := r, host := hs, taken := tk } =
      { readView k view s with host := hs, taken := tk } := by
  cases k with
  | none => exact raise_ports s r hs tk .illegalCommand
  | some k =>
    simp only [readView]
    split
    · exact respond_ports s r hs tk (view k)
    · exact raise_ports s r hs tk .invalidState

/-- The ports do not enter a host command, and of them it writes the response only. -/
theorem commandResult_ports {i : Instr} (hc : i.isCommand) :
    commandResult i { s with rsp := r, host := hs, taken := tk } =
      { commandResult i s with host := hs, taken := tk } := by
  cases i with
  | nop | init | rdstat => rfl
  | update b =>
    simp only [commandResult, absorb_ports]
    split
    · exact raise_ports s r hs tk .invalidState
    · rfl
  | digest =>
    simp only [commandResult, absorbAll_ports]
    split
    · exact raise_ports s r hs tk .invalidState
    · rfl
  | rdhex k => exact readView_ports s r hs tk (hexIndex k) (hex s.h)
  | rddig k => exact readView_ports s r hs tk (digIndex k) (dg s.h)
  | _ => simp [Instr.isCommand, encode] at hc

end Ports

/-- Settles O45: a host command ends in `commandResult`, which the ports do not enter. -/
theorem commandsIgnorePorts : Obligations.CommandsIgnorePorts := by
  unfold Obligations.CommandsIgnorePorts
  intro i s r hs tk hc
  exact ⟨_, exec_of_isCommand hc s, by rw [exec_of_isCommand hc, commandResult_ports s r hs tk hc]⟩

end Sys2Proof.Machine
end

section
/-! SUPPORT. The decoder and the encoder against each other (30_encoding.md R64 to R70): the decoder's answer to each opcode,
the two round trips, the patterns of R65, and the classes of R67. -/
namespace Sys2Proof

section Opcodes
variable (b : Byte)

/-! What the decoder answers to each opcode, whatever the operand byte (R65). -/

@[simp] theorem decodeCommand_nopWord : decodeCommand (commandWord 0#4 b) = decodeBare b .nop := by
  simp [decodeCommand, commandWord_eq_packWord]

@[simp] theorem decodeCommand_initWord : decodeCommand (commandWord 1#4 b) = decodeBare b .init := by
  simp [decodeCommand, commandWord_eq_packWord]

@[simp] theorem decodeCommand_updateWord : decodeCommand (commandWord 2#4 b) = .ok (.update b) := by
  simp [decodeCommand, commandWord_eq_packWord]

@[simp] theorem decodeCommand_digestWord : decodeCommand (commandWord 3#4 b) = decodeBare b .digest := by
  simp [decodeCommand, commandWord_eq_packWord]

@[simp] theorem decodeCommand_rdhexWord : decodeCommand (commandWord 4#4 b) = decodeRdhex b := by
  simp [decodeCommand, commandWord_eq_packWord]

@[simp] theorem decodeCommand_rddigWord : decodeCommand (commandWord 5#4 b) = decodeRddig b := by
  simp [decodeCommand, commandWord_eq_packWord]

@[simp] theorem decodeCommand_rdstatWord : decodeCommand (commandWord 6#4 b) = decodeBare b .rdstat := by
  simp [decodeCommand, commandWord_eq_packWord]

end Opcodes

/-- Each entry stands at its own index of the ROM (R124). -/
theorem decodeStep_of_encode_rom {i : Instr} {k : BitVec 6} (h : encode i = .rom k) : decodeStep k = i := by
  cases i <;> cases h <;> rfl

theorem wf_of_encode_rom {i : Instr} {k : BitVec 6} (h : encode i = .rom k) : i.wf := by
  cases i <;> cases h <;> rfl

/-- Settles O2: a ROM entry by its index; a host command by what the decoder answers to its opcode, where `wf` is the check on
the operand byte. -/
theorem decodeOfEncode : Obligations.DecodeOfEncode := by
  unfold Obligations.DecodeOfEncode
  intro i hwf
  cases i with
  | nop => exact decodeCommand_nopWord 0
  | init => exact decodeCommand_initWord 0
  | update b => exact decodeCommand_updateWord b
  | digest => exact decodeCommand_digestWord 0
  | rdhex b => exact (decodeCommand_rdhexWord b).trans (if_pos (eq_of_beq hwf))
  | rddig b => exact (decodeCommand_rddigWord b).trans (if_pos (eq_of_beq hwf))
  | rdstat => exact decodeCommand_rdstatWord 0
  | _ => exact congrArg Except.ok (decodeStep_of_encode_rom rfl)

/-- Settles O3: a command word by the cases of its decoding, a ROM index by the entry that stands there. -/
theorem encodeOfDecode : Obligations.EncodeOfDecode := by
  unfold Obligations.EncodeOfDecode
  intro c i h
  cases c with
  | command w =>
    rcases decodeCommand_ok_cases h with ⟨rfl, rfl⟩ | ⟨rfl, rfl⟩ | ⟨b, rfl, rfl⟩ | ⟨rfl, rfl⟩ | ⟨b, rfl, rfl, hb⟩ |
      ⟨b, rfl, rfl, hb⟩ | ⟨rfl, rfl⟩
    · exact ⟨rfl, rfl⟩
    · exact ⟨rfl, rfl⟩
    · exact ⟨rfl, rfl⟩
    · exact ⟨rfl, rfl⟩
    · exact ⟨beq_iff_eq.mpr hb, rfl⟩
    · exact ⟨beq_iff_eq.mpr hb, rfl⟩
    · exact ⟨rfl, rfl⟩
  | rom k =>
    cases h
    have hk := Machine.encode_decodeStep k
    exact ⟨wf_of_encode_rom hk, hk⟩

/-- The two round trips in one: a word decodes to a well-formed command exactly when it is that command's word. -/
theorem decodeCommand_eq_ok_iff {w v : PortWord} {i : Instr} (hwf : i.wf) (hv : encode i = .command v) :
    decodeCommand w = .ok i ↔ v = w := by
  refine ⟨fun h => ?_, fun h => ?_⟩
  · exact Code.command.inj (hv.symm.trans (encodeOfDecode (.command w) i h).2)
  · simpa [hv, h, decode] using decodeOfEncode i hwf

/-- A pattern with an operand of `n` low bits: the word is the pattern's high bits followed by the operand exactly when it
matches under the mask that leaves the operand out. -/
theorem append_eq_iff_masked {m n : Nat} (hi : BitVec m) (k : BitVec n) (w : BitVec (m + n)) :
    hi ++ k = w ↔ w &&& (BitVec.allOnes m ++ 0#n) = hi ++ 0#n ∧ k = w.extractLsb' 0 n := by
  obtain ⟨a, b, rfl⟩ : ∃ (a : BitVec m) (b : BitVec n), w = a ++ b :=
    ⟨w.extractLsb' n m, w.extractLsb' 0 n, BitVec.extractLsb'_append_extractLsb'.symm⟩
  simp only [BitVec.and_append, BitVec.and_allOnes, BitVec.and_zero, BitVec.append_left_inj,
    BitVec.extractLsb'_append_eq_right]
  refine ⟨fun h => ⟨?_, ?_⟩, fun ⟨ha, hb⟩ => by rw [ha, hb]⟩
  · simpa [BitVec.extractLsb'_append_eq_left] using (congrArg (BitVec.extractLsb' n m) h).symm
  · simpa [BitVec.extractLsb'_append_eq_right] using congrArg (BitVec.extractLsb' 0 n) h

/-- A pattern with no operand: every bit is compared. -/
theorem eq_iff_full_mask (v w : PortWord) : v = w ↔ w &&& 0xFFFF = v := by
  rw [show w &&& 0xFFFF = w from BitVec.and_allOnes, eq_comm]

/-- RDHEX's operand of five bits is a well-formed operand byte (R66). -/
theorem wf_rdhex (k : BitVec 5) : (Instr.rdhex (k.setWidth 8)).wf := by revert k; decide

theorem wf_rddig (k : BitVec 4) : (Instr.rddig (k.setWidth 8)).wf := by revert k; decide

theorem updateWord_eq_append (b : Byte) : commandWord 2 b = 0x20#8 ++ b := by
  rw [commandWord, BitVec.append_assoc']
  rfl

theorem rdhexWord_eq_append (k : BitVec 5) : commandWord 4 (k.setWidth 8) = 0x200#11 ++ k := by revert k; decide

theorem rddigWord_eq_append (k : BitVec 4) : commandWord 5 (k.setWidth 8) = 0x500#12 ++ k := by revert k; decide

/-- An operand byte whose high bits are 0 is its low bits. -/
theorem exists_setWidth_five {b : Byte} (h : b.extractLsb' 5 3 = 0) : ∃ k : BitVec 5, b = k.setWidth 8 :=
  ⟨b.extractLsb' 0 5, by revert b; decide +kernel⟩

theorem exists_setWidth_four {b : Byte} (h : b.extractLsb' 4 4 = 0) : ∃ k : BitVec 4, b = k.setWidth 8 :=
  ⟨b.extractLsb' 0 4, by revert b; decide +kernel⟩

theorem masks_disjoint {p q : PortWord × PortWord} (h : p.2 &&& q.1 ≠ q.2 &&& p.1) (w : PortWord) :
    ¬(w &&& p.1 = p.2 ∧ w &&& q.1 = q.2) := by
  rintro ⟨hp, hq⟩
  exact h (by rw [← hp, ← hq, BitVec.and_assoc, BitVec.and_assoc, BitVec.and_comm p.1])

section Patterns
variable (w : PortWord)

/-! The seven rows of R65: a word decodes to the command exactly when it matches the row. -/

theorem decodeCommand_eq_nop_iff : decodeCommand w = .ok .nop ↔ w &&& 0xFFFF = 0x0000 :=
  (decodeCommand_eq_ok_iff rfl rfl).trans (eq_iff_full_mask 0x0000 w)

theorem decodeCommand_eq_init_iff : decodeCommand w = .ok .init ↔ w &&& 0xFFFF = 0x1000 :=
  (decodeCommand_eq_ok_iff rfl rfl).trans (eq_iff_full_mask 0x1000 w)

theorem decodeCommand_eq_update_iff (b : Byte) :
    decodeCommand w = .ok (.update b) ↔ w &&& 0xFF00 = 0x2000 ∧ b = w.extractLsb' 0 8 :=
  (decodeCommand_eq_ok_iff (i := .update b) rfl (congrArg Code.command (updateWord_eq_append b))).trans
    (append_eq_iff_masked 0x20#8 b w)

theorem decodeCommand_eq_digest_iff : decodeCommand w = .ok .digest ↔ w &&& 0xFFFF = 0x3000 :=
  (decodeCommand_eq_ok_iff rfl rfl).trans (eq_iff_full_mask 0x3000 w)

theorem decodeCommand_eq_rdhex_iff (k : BitVec 5) :
    decodeCommand w = .ok (.rdhex (k.setWidth 8)) ↔ w &&& 0xFFE0 = 0x4000 ∧ k = w.extractLsb' 0 5 :=
  (decodeCommand_eq_ok_iff (wf_rdhex k) (congrArg Code.command (rdhexWord_eq_append k))).trans
    (append_eq_iff_masked 0x200#11 k w)

theorem decodeCommand_eq_rddig_iff (k : BitVec 4) :
    decodeCommand w = .ok (.rddig (k.setWidth 8)) ↔ w &&& 0xFFF0 = 0x5000 ∧ k = w.extractLsb' 0 4 :=
  (decodeCommand_eq_ok_iff (wf_rddig k) (congrArg Code.command (rddigWord_eq_append k))).trans
    (append_eq_iff_masked 0x500#12 k w)

theorem decodeCommand_eq_rdstat_iff : decodeCommand w = .ok .rdstat ↔ w &&& 0xFFFF = 0x6000 :=
  (decodeCommand_eq_ok_iff rfl rfl).trans (eq_iff_full_mask 0x6000 w)

theorem decodeCommand_error_iff_not_ok : (∃ e, decodeCommand w = .error e) ↔ ∀ i, decodeCommand w ≠ .ok i := by
  cases decodeCommand w <;> simp

/-- A word is illegal exactly when it matches no row: a match would decode, and what decodes is one of the seven commands. -/
theorem decodeCommand_error_iff_no_match : (∃ e, decodeCommand w = .error e) ↔
    w &&& 0xFFFF ≠ 0x0000 ∧ w &&& 0xFFFF ≠ 0x1000 ∧ w &&& 0xFF00 ≠ 0x2000 ∧ w &&& 0xFFFF ≠ 0x3000 ∧
    w &&& 0xFFE0 ≠ 0x4000 ∧ w &&& 0xFFF0 ≠ 0x5000 ∧ w &&& 0xFFFF ≠ 0x6000 := by
  rw [decodeCommand_error_iff_not_ok]
  constructor
  · intro h
    exact ⟨fun m => h _ ((decodeCommand_eq_nop_iff w).mpr m),
      fun m => h _ ((decodeCommand_eq_init_iff w).mpr m),
      fun m => h _ ((decodeCommand_eq_update_iff w _).mpr ⟨m, rfl⟩),
      fun m => h _ ((decodeCommand_eq_digest_iff w).mpr m),
      fun m => h _ ((decodeCommand_eq_rdhex_iff w _).mpr ⟨m, rfl⟩),
      fun m => h _ ((decodeCommand_eq_rddig_iff w _).mpr ⟨m, rfl⟩),
      fun m => h _ ((decodeCommand_eq_rdstat_iff w).mpr m)⟩
  · rintro ⟨hnop, hinit, hupdate, hdigest, hrdhex, hrddig, hrdstat⟩ i hi
    rcases decodeCommand_ok_cases hi with ⟨-, rfl⟩ | ⟨-, rfl⟩ | ⟨b, -, rfl⟩ | ⟨-, rfl⟩ | ⟨b, -, rfl, hb⟩ |
      ⟨b, -, rfl, hb⟩ | ⟨-, rfl⟩
    · exact hnop ((decodeCommand_eq_nop_iff w).mp hi)
    · exact hinit ((decodeCommand_eq_init_iff w).mp hi)
    · exact hupdate ((decodeCommand_eq_update_iff w b).mp hi).1
    · exact hdigest ((decodeCommand_eq_digest_iff w).mp hi)
    · obtain ⟨k, rfl⟩ := exists_setWidth_five hb
      exact hrdhex ((decodeCommand_eq_rdhex_iff w k).mp hi).1
    · obtain ⟨k, rfl⟩ := exists_setWidth_four hb
      exact hrddig ((decodeCommand_eq_rddig_iff w k).mp hi).1
    · exact hrdstat ((decodeCommand_eq_rdstat_iff w).mp hi)

end Patterns

/-- Settles O4: the seven rows one by one, the patterns disjoint by their matches under each other's masks. -/
theorem patternsSelectCommands : Obligations.PatternsSelectCommands := by
  unfold Obligations.PatternsSelectCommands
  intro w
  exact ⟨decodeCommand_eq_nop_iff w, decodeCommand_eq_init_iff w, decodeCommand_eq_update_iff w,
    decodeCommand_eq_digest_iff w, decodeCommand_eq_rdhex_iff w, decodeCommand_eq_rddig_iff w,
    decodeCommand_eq_rdstat_iff w, List.Pairwise.imp (fun h => masks_disjoint h w) (by decide),
    decodeCommand_error_iff_no_match w⟩

/-! The classes of R67. -/

theorem decodeCommand_of_reserved_opcode {w : PortWord} (h : 7 ≤ (opField w).toNat) :
    decodeCommand w = .error .reservedOpcode := by
  simp only [decodeCommand, if_pos h]

theorem decodeCommand_of_reserved_bits {w : PortWord} (h : (opField w).toNat ≤ 6) (hr : rsvField w ≠ 0) :
    decodeCommand w = .error .reservedBits := by
  simp only [decodeCommand, if_neg (Nat.not_le.mpr (Nat.lt_succ_of_le h)), if_pos hr]

/-- A word by the class it can belong to: a reserved opcode, reserved bits, or a word of one of the seven opcodes. -/
theorem word_cases (w : PortWord) :
    7 ≤ (opField w).toNat ∨ ((opField w).toNat ≤ 6 ∧ rsvField w ≠ 0) ∨
    ∃ op b, op.toNat ≤ 6 ∧ w = commandWord op b := by
  by_cases h7 : 7 ≤ (opField w).toNat
  · exact .inl h7
  · have h6 : (opField w).toNat ≤ 6 := by omega
    by_cases hr : rsvField w = 0
    · exact .inr (.inr ⟨_, immField w, h6, by rw [commandWord_eq_packWord, ← hr, packWord_fields]⟩)
    · exact .inr (.inl ⟨h6, hr⟩)

/-- The decoder's check of an operand byte fails in one way. -/
theorem operandCheck_eq_error_iff (P : Prop) [Decidable P] (i : Instr) (e : Illegal) :
    (if P then .ok i else .error .operandBits : Except Illegal Instr) = .error e ↔ ¬P ∧ e = .operandBits := by
  by_cases h : P <;> simp [h, eq_comm]

/-- Operand bits are set that the command of opcode `op` does not have (R66, R67 (c)). -/
abbrev ExtraOperandBits (op : BitVec 4) (b : Byte) : Prop :=
  (op ∈ [0, 1, 3, 6] ∧ b ≠ 0) ∨ (op = 4 ∧ b.extractLsb' 5 3 ≠ 0) ∨ (op = 5 ∧ b.extractLsb' 4 4 ≠ 0)

theorem ExtraOperandBits.opcode_le {op : BitVec 4} {b : Byte} (h : ExtraOperandBits op b) : op.toNat ≤ 6 := by
  have hmem : ∀ op : BitVec 4, op ∈ [0, 1, 3, 6] → op.toNat ≤ 6 := by decide
  rcases h with ⟨h, -⟩ | ⟨rfl, -⟩ | ⟨rfl, -⟩
  · exact hmem op h
  · decide
  · decide

theorem decodeCommand_commandWord_error_iff {op : BitVec 4} (h6 : op.toNat ≤ 6) (b : Byte) (e : Illegal) :
    decodeCommand (commandWord op b) = .error e ↔ ExtraOperandBits op b ∧ e = .operandBits := by
  have hop : op = 0#4 ∨ op = 1#4 ∨ op = 2#4 ∨ op = 3#4 ∨ op = 4#4 ∨ op = 5#4 ∨ op = 6#4 := by revert op; decide
  rcases hop with rfl | rfl | rfl | rfl | rfl | rfl | rfl <;>
    simp [decodeBare, decodeRdhex, decodeRddig, operandCheck_eq_error_iff, ExtraOperandBits]

/-- The illegal words in full: the class of R67 decides the name, and the three exclude each other. -/
theorem decodeCommand_eq_error_iff (w : PortWord) (e : Illegal) :
    decodeCommand w = .error e ↔
      (7 ≤ (opField w).toNat ∧ e = .reservedOpcode) ∨
      ((opField w).toNat ≤ 6 ∧ rsvField w ≠ 0 ∧ e = .reservedBits) ∨
      (rsvField w = 0 ∧ ExtraOperandBits (opField w) (immField w) ∧ e = .operandBits) := by
  rcases word_cases w with h7 | ⟨h6, (hr : rsvField w ≠ 0#4)⟩ | ⟨op, b, h6, rfl⟩
  · have hx : ¬ExtraOperandBits (opField w) (immField w) := fun hx => absurd hx.opcode_le (by omega)
    have h6 : ¬(opField w).toNat ≤ 6 := by omega
    simp [decodeCommand_of_reserved_opcode h7, h7, h6, hx, eq_comm (b := e)]
  · have h7 : ¬7 ≤ (opField w).toNat := by omega
    simp [decodeCommand_of_reserved_bits h6 hr, h7, h6, hr, eq_comm (b := e)]
  · have h7 : ¬7 ≤ op.toNat := by omega
    rw [decodeCommand_commandWord_error_iff h6]
    simp [commandWord_eq_packWord, h7]

theorem immField_extractLow (w : PortWord) {lo n : Nat} (h : lo + n ≤ 8) :
    (immField w).extractLsb' lo n = w.extractLsb' lo n := by
  conv_rhs => rw [← packWord_fields w]
  exact (packWord_extractLow _ _ _ h).symm

/-- Settles O5: each class by its name in `decodeCommand_eq_error_iff`. -/
theorem illegalWordClasses : Obligations.IllegalWordClasses := by
  unfold Obligations.IllegalWordClasses
  intro w
  refine ⟨?_, ?_, ?_⟩
  · rw [decodeCommand_eq_error_iff]; simp [opField]
  · rw [decodeCommand_eq_error_iff]; simp [opField, rsvField]
  · rw [decodeCommand_eq_error_iff, ← immField_extractLow w (lo := 5) (by decide),
      ← immField_extractLow w (lo := 4) (by decide)]
    simp [opField, rsvField, immField, ExtraOperandBits]

end Sys2Proof
end

section
/-! SUPPORT. The handshake and the response word (30_encoding.md R61 to R63). -/
namespace Sys2Proof.Machine

theorem raise_illegalCommand (s : State) : raise .illegalCommand s = { s with errIC := true, rsp := some 0x0200 } := rfl

/-- Settles O29: the word is accepted, and an illegal one raises whatever the state. -/
theorem illegalWordIsAnswered : Obligations.IllegalWordIsAnswered := by
  unfold Obligations.IllegalWordIsAnswered
  intro s w e rest hh hs hr hd
  rw [step_of_accepted hs hh hr, runCommand_of_error hd, raise_illegalCommand]

/-- Settles O35: the word is accepted, and its meaning is the decoded instruction's. -/
theorem stepRunsAcceptedCommand : Obligations.StepRunsAcceptedCommand := by
  unfold Obligations.StepRunsAcceptedCommand
  intro s w i rest hh hs hr hd
  rw [step_of_accepted hs hh hr, runCommand, hd]

/-- Settles O37: the step's equation for each case. -/
theorem handshakeSteps : Obligations.HandshakeSteps := by
  unfold Obligations.HandshakeSteps
  intro s hs
  refine ⟨step_of_no_action hs, fun w rest r hh hr => step_of_not_ready hs hh (by simp [hr]), fun rest r hh hr => ?_,
    fun rest hh hr => ?_⟩
  · rw [step_of_take hs hh, takeResponse, hr]
  · rw [step_of_take hs hh, takeResponse, hr]

theorem responseWord_high (rc : BitVec 2) (d : Byte) : (responseWord rc d).extractLsb' 10 6 = 0 := by
  revert rc d; decide +kernel

theorem responseWord_rc (rc : BitVec 2) (d : Byte) : (responseWord rc d).extractLsb' 8 2 = rc := by
  revert rc d; decide +kernel

theorem responseWord_data (rc : BitVec 2) (d : Byte) : (responseWord rc d).extractLsb' 0 8 = d :=
  BitVec.extractLsb'_append_eq_right

theorem responseLegal_error (e : Cause) : ResponseLegal (responseWord (causeCode e) 0) := by
  cases e <;> decide

theorem readView_rsp {w : Nat} (k : Option (BitVec w)) (view : BitVec w → Byte) (s : State) :
    (∃ e, (readView k view s).rsp = some (responseWord (causeCode e) 0)) ∨
    ∃ d, (readView k view s).rsp = some (responseWord 0 d) :=
  (readView_ways k view s).imp (fun ⟨e, h⟩ => ⟨e, h ▸ raise_rsp e s⟩) (fun ⟨d, h⟩ => ⟨d, h ▸ respond_rsp d s⟩)

/-- The three commands whose answer carries data (R63). -/
abbrev IsRead (i : Instr) : Prop := (∃ k, i = .rdhex k) ∨ (∃ k, i = .rddig k) ∨ i = .rdstat

/-- What a host command answers: an error with no data, or OK with data that only a read can set. -/
theorem commandResult_rsp {i : Instr} (hc : i.isCommand) (s : State) :
    (∃ e, (commandResult i s).rsp = some (responseWord (causeCode e) 0)) ∨
    ∃ d, (commandResult i s).rsp = some (responseWord 0 d) ∧ (d ≠ 0 → IsRead i) := by
  cases i with
  | nop | init => exact .inr ⟨0, rfl, absurd rfl⟩
  | update | digest =>
    cases hf : s.fin
    · exact .inr ⟨0, by simp [commandResult, hf], absurd rfl⟩
    · exact .inl ⟨.invalidState, by simp [commandResult, hf]⟩
  | rdhex k => exact (readView_rsp _ _ s).imp_right fun ⟨d, h⟩ => ⟨d, h, fun _ => .inl ⟨k, rfl⟩⟩
  | rddig k => exact (readView_rsp _ _ s).imp_right fun ⟨d, h⟩ => ⟨d, h, fun _ => .inr (.inl ⟨k, rfl⟩)⟩
  | rdstat => exact .inr ⟨statusReg s, rfl, fun _ => .inr (.inr rfl)⟩
  | _ => simp [Instr.isCommand, encode] at hc

/-- Settles O34: by the two ways a host command answers, and the fields of a response word. -/
theorem responseShape : Obligations.ResponseShape := by
  unfold Obligations.ResponseShape
  intro i s hc
  rcases commandResult_rsp hc s with ⟨e, h⟩ | ⟨d, h, hd⟩
  · refine ⟨_, _, exec_of_isCommand hc s, h, responseLegal_error e, responseWord_high _ 0, ?_, ?_⟩
    · rw [responseWord_rc]; cases e <;> decide
    · rw [responseWord_data]; exact absurd rfl
  · refine ⟨_, _, exec_of_isCommand hc s, h, responseLegal_ok d, responseWord_high 0 d, ?_, ?_⟩
    · rw [responseWord_rc]; decide
    · rw [responseWord_data, responseWord_rc]; exact fun h => ⟨rfl, hd h⟩

end Sys2Proof.Machine
end

section
/-! SUPPORT. The written words of R65, R67 and R124, and the fields of the step ROM (42_block_transform.md R117, R118). -/
namespace Sys2Proof.Machine

/-- Settles O1: each written word by evaluation. -/
theorem writtenWordsDecode : Obligations.WrittenWordsDecode := by
  unfold Obligations.WrittenWordsDecode
  decide +kernel

theorem rom_fn_eq (i : BitVec 6) : (rom i).fn = [RoundFn.F, .G, .H, .I].getD (i.toNat / 16) .F := by
  revert i; decide +kernel

theorem rotation_bounds (i : BitVec 6) : 4 ≤ Md5.rotation i.toNat ∧ Md5.rotation i.toNat ≤ 23 := by
  revert i; decide +kernel

/-- The index formula of each round is a permutation of the 16 message words (R117). -/
theorem index_once_per_round :
    ∀ (r : Fin 4) (g : Fin 16), ((List.range 16).filter (fun j => Md5.index (16 * r.val + j) = g.val)).length = 1 := by
  decide +kernel

/-- Settles O6: each field against its formula, over the 64 entries. -/
theorem romFieldsFollowFormulas : Obligations.RomFieldsFollowFormulas := by
  unfold Obligations.RomFieldsFollowFormulas
  refine ⟨fun i => ⟨rom_fn_eq i, rom_g_eq i, srom_eq i, ?_⟩, index_once_per_round⟩
  rw [srom_eq]
  exact rotation_bounds i

end Sys2Proof.Machine
end

section
/-! SUPPORT. The commands UPDATE and DIGEST of an open message (40_host_commands.md R83 to R85, 41_padding_finalization.md). -/
namespace Sys2Proof.Machine

/-- UPDATE with FIN = 0 absorbs its byte (R83). -/
theorem exec_update_of_open {s : State} (hf : s.fin = false) (b : Byte) :
    exec (.update b) s = .next (respond 0 (absorb b s)) := by
  rw [exec_of_isCommand rfl, commandResult, hf, if_neg Bool.false_ne_true]

/-- DIGEST with FIN = 0 absorbs the padding and the trailer (R85). -/
theorem exec_digest_of_open {s : State} (hf : s.fin = false) :
    exec .digest s = .next (respond 0 { absorbAll (finalBytes s.len s.cnt) s with fin := true }) := by
  rw [exec_of_isCommand rfl, commandResult, hf, if_neg Bool.false_ne_true]

/-- Settles O18: UPDATE absorbs, and the byte does not fill the block. -/
theorem updateAbsorbsByte : Obligations.UpdateAbsorbsByte := by
  unfold Obligations.UpdateAbsorbsByte
  intro b s hf h63
  rw [exec_update_of_open hf, absorb_of_ne b s h63]
  rfl

theorem pendingBytes_of_full {s : State} (h63 : s.len = 63) : pendingBytes s = (List.range 63).map (Memory.read s.buf) := by
  rw [pendingBytes, h63]
  rfl

/-- Settles O19: UPDATE absorbs, and the byte fills the block. -/
theorem updateTransformsFullBlock : Obligations.UpdateTransformsFullBlock := by
  unfold Obligations.UpdateTransformsFullBlock
  intro b s hf h63
  rw [exec_update_of_open hf, absorb_of_eq b s h63, pendingBytes_of_full h63]
  rfl

/-- `Absorb` writes one cell, at LEN, whether or not the byte fills the block (R84). -/
theorem absorb_buf (b : Byte) (s : State) : (absorb b s).buf = Memory.write s.buf s.len.toNat b := by
  by_cases h63 : s.len = 63
  · rw [absorb_of_eq b s h63, h63]; rfl
  · rw [absorb_of_ne b s h63]

/-- Settles O20: the cells of BUF after one write at LEN. -/
theorem updateStoresOneByte : Obligations.UpdateStoresOneByte := by
  unfold Obligations.UpdateStoresOneByte
  intro b s hf
  refine ⟨_, exec_update_of_open hf b, ?_, fun a ha => ?_⟩
  · rw [respond_buf, absorb_buf, Memory.read_write, if_pos rfl]
  · rw [respond_buf, absorb_buf, Memory.read_write, if_neg ha]

/-- The padding that fits in the open block: 0x80 and zeros up to byte 56, then the trailer (R100 to R102). -/
theorem finalBytes_of_le {n : BitVec 6} (hn : n.toNat ≤ 55) (t : BitVec 64) :
    finalBytes n t = 0x80 :: List.replicate (55 - n.toNat) 0x00 ++ Md5.le64 t := by
  have hpad : padLength n - 1 = 55 - n.toNat := by rw [padLength, if_pos (by omega)]; omega
  rw [finalBytes, hpad, trailer_eq]

/-- The padding that does not fit: the open block is filled up with zeros, and a block of 56 zeros and the trailer follows. -/
theorem finalBytes_of_ge {n : BitVec 6} (hn : 56 ≤ n.toNat) (t : BitVec 64) :
    finalBytes n t =
      (0x80 :: List.replicate (63 - n.toNat) 0x00) ++ (List.replicate 56 0x00 ++ Md5.le64 t) := by
  have hlt := n.isLt
  have hpad : padLength n - 1 = (63 - n.toNat) + 56 := by rw [padLength, if_neg (by omega)]; omega
  rw [finalBytes, hpad, trailer_eq, List.replicate_add]
  simp only [List.cons_append, List.append_assoc]

/-- The padding and the trailer up to the next block boundary are a number of bytes that depends on LEN alone (R24, R100). -/
theorem absorbAll_finalBytes_cnt (s : State) :
    (absorbAll (finalBytes s.len s.cnt) s).cnt = s.cnt + BitVec.ofNat 64 (8 * (padLength s.len + 8)) := by
  rw [absorbAll_cnt, finalBytes_length]

/-- What DIGEST leaves besides H, x, CNT and BUF, once its bytes have ended at a block boundary (R106). -/
theorem digestRest_of_closed {bs : List Byte} {s : State} (hlen : (absorbAll bs s).len = 0) (hpc : (absorbAll bs s).pc = 0)
    (hseq : (absorbAll bs s).seq = .idle) : DigestRest s (respond 0 { absorbAll bs s with fin := true }) := by
  obtain ⟨-, hIS, hIC, -, hhost, htaken⟩ := absorbAll_frame bs s
  exact ⟨hlen, rfl, hIS, hIC, rfl, hpc, hseq, hhost, htaken⟩

/-- Settles O21: the padding and the trailer complete the open block. -/
theorem digestClosesOneBlock : Obligations.DigestClosesOneBlock := by
  unfold Obligations.DigestClosesOneBlock
  intro s hf hn block
  have hpad : padLength s.len + 8 = 64 - s.len.toNat := by rw [padLength, if_pos (by omega)]; omega
  have hfill : s.len.toNat + (finalBytes s.len s.cnt).length = 64 := by rw [finalBytes_length]; omega
  have hcnt := absorbAll_finalBytes_cnt s
  obtain ⟨hh, hx, hpc, hseq, hlen, hread, habove⟩ := absorbAll_block (finalBytes s.len s.cnt) s hfill
  have hblock : (List.range s.len.toNat).map (Memory.read s.buf) ++ finalBytes s.len s.cnt = block := by
    rw [finalBytes_of_le hn, ← List.append_assoc]; rfl
  rw [hblock] at hh hx hread
  rw [hpad] at hcnt
  exact ⟨_, exec_digest_of_open hf, hh, hx, hcnt, hread, habove, digestRest_of_closed hlen hpc hseq⟩

/-- Settles O22: 0x80 and zeros complete the open block, and the second block starts from an empty buffer. -/
theorem digestClosesTwoBlocks : Obligations.DigestClosesTwoBlocks := by
  unfold Obligations.DigestClosesTwoBlocks
  intro s hf hn block0 block1
  have hlt := s.len.isLt
  have hpad : padLength s.len + 8 = 128 - s.len.toNat := by rw [padLength, if_neg (by omega)]; omega
  have hcnt := absorbAll_finalBytes_cnt s
  have hsplit := absorbAll_append (0x80 :: List.replicate (63 - s.len.toNat) 0x00) block1 s
  rw [← finalBytes_of_ge hn] at hsplit
  obtain ⟨hh0, -, -, -, hlen0, -, habove0⟩ :=
    absorbAll_block (0x80 :: List.replicate (63 - s.len.toNat) 0x00) s (by simp; omega)
  generalize absorbAll (0x80 :: List.replicate (63 - s.len.toNat) 0x00) s = s0 at hsplit hh0 hlen0 habove0
  have hfill : s0.len.toNat + block1.length = 64 := by simp [hlen0, block1, Md5.le64]
  obtain ⟨hh, hx, hpc, hseq, hlen, hread, habove⟩ := absorbAll_block block1 s0 hfill
  rw [hlen0] at hh hx hread
  rw [hh0] at hh hx
  rw [hpad] at hcnt
  rw [← hsplit] at hh hx hpc hseq hlen hread habove
  exact ⟨_, exec_digest_of_open hf, hh, hx, hcnt, hread, fun a ha => (habove a ha).trans (habove0 a ha),
    digestRest_of_closed hlen hpc hseq⟩

end Sys2Proof.Machine
end

section
/-! SUPPORT. The serializer against the reference strings (43_serializer.md R130 to R133), and the read commands RDHEX and
RDDIG (40_host_commands.md R86, R87). -/
namespace Sys2Proof.Machine

/-- A field of a field is a field of the whole. -/
theorem extractLsb'_of_extractLsb' {w m n i j : Nat} (v : BitVec w) (h : j + n ≤ m) :
    (v.extractLsb' i m).extractLsb' j n = v.extractLsb' (i + j) n := by
  ext k hk
  simp [show j + k < m by omega, Nat.add_assoc]

theorem hexDigit_eq_asciiDigits (v : BitVec 4) : hexDigit v = Md5.asciiDigits.getD v.toNat 0 := by
  revert v; decide

/-- A hexadecimal digit is a character of `0` to `9` or of `a` to `f` (R131). -/
theorem hexDigit_range (v : BitVec 4) :
    (0x30 ≤ (hexDigit v).toNat ∧ (hexDigit v).toNat ≤ 0x39) ∨ (0x61 ≤ (hexDigit v).toNat ∧ (hexDigit v).toNat ≤ 0x66) := by
  revert v; decide

/-- Byte `k` of the digest is byte `k mod 4` of word `k div 4` (R130). -/
theorem dg_eq_digestBytes (h : Quad) (k : BitVec 4) : dg h k = (Md5.digestBytes h).getD k.toNat 0 := by
  obtain ⟨⟨k, hk⟩⟩ := k
  interval_cases k <;> simp [dg, Quad.get, Md5.digestBytes, Md5.wordBytes]

/-- The digits of a byte, the high one first. -/
def byteDigits (b : Byte) : List Byte := [hexDigit (b.extractLsb' 4 4), hexDigit (b.extractLsb' 0 4)]

/-- The nibbles of a word in the order of R132 are the digits of its bytes, lowest byte first. -/
theorem wordChars_eq_flatMap (v : Word) : Md5.wordChars v = (Md5.wordBytes v).flatMap byteDigits := by
  simp [Md5.wordChars, Md5.wordBytes, byteDigits, hexDigit_eq_asciiDigits, extractLsb'_of_extractLsb']

theorem hexString_eq_flatMap (h : Quad) : Md5.hexString h = (Md5.digestBytes h).flatMap byteDigits := by
  simp only [Md5.hexString, Md5.digestBytes, wordChars_eq_flatMap, List.flatMap_append]

/-- Where the digits of byte `k` stand in the string of all digits. -/
theorem flatMap_byteDigits_getD (bs : List Byte) {k : Nat} (hk : k < bs.length) :
    (bs.flatMap byteDigits).getD (2 * k) 0 = hexDigit ((bs.getD k 0).extractLsb' 4 4) ∧
    (bs.flatMap byteDigits).getD (2 * k + 1) 0 = hexDigit ((bs.getD k 0).extractLsb' 0 4) := by
  induction bs generalizing k with
  | nil => exact absurd hk (Nat.not_lt_zero k)
  | cons b bs ih =>
    cases k with
    | zero => exact ⟨rfl, rfl⟩
    | succ k => exact ih (Nat.lt_of_succ_lt_succ hk)

/-- Characters `2k` and `2k + 1` of the hex string are the digits of byte `k` (R87, R132). -/
theorem hexString_getD_pair (h : Quad) (k : BitVec 4) :
    (Md5.hexString h).getD (2 * k.toNat) 0 = hexDigit ((dg h k).extractLsb' 4 4) ∧
    (Md5.hexString h).getD (2 * k.toNat + 1) 0 = hexDigit ((dg h k).extractLsb' 0 4) := by
  rw [hexString_eq_flatMap, dg_eq_digestBytes]
  exact flatMap_byteDigits_getD (Md5.digestBytes h) k.isLt

/-- The view that RDHEX reads is the reference string, character by character (R132, R133). -/
theorem hex_eq_hexString (h : Quad) (c : BitVec 5) : hex h c = (Md5.hexString h).getD c.toNat 0 := by
  obtain ⟨heven, hodd⟩ := hexString_getD_pair h (c.extractLsb' 1 4)
  have hk : (c.extractLsb' 1 4).toNat = c.toNat / 2 := by
    have := c.isLt
    rw [BitVec.extractLsb'_toNat, Nat.shiftRight_eq_div_pow]
    omega
  rw [hk] at heven hodd
  by_cases hc : c.toNat % 2 = 0
  · rw [hex, if_pos hc, ← heven, show 2 * (c.toNat / 2) = c.toNat by omega]
  · rw [hex, if_neg hc, ← hodd, show 2 * (c.toNat / 2) + 1 = c.toNat by omega]

theorem hex_range (h : Quad) (c : BitVec 5) :
    (0x30 ≤ (hex h c).toNat ∧ (hex h c).toNat ≤ 0x39) ∨ (0x61 ≤ (hex h c).toNat ∧ (hex h c).toNat ≤ 0x66) :=
  hexDigit_range _

theorem raise_invalidState (s : State) : raise .invalidState s = { s with errIS := true, rsp := some 0x0100 } := rfl

theorem respond_eq (d : Byte) (s : State) : respond d s = { s with rsp := some (0x00#8 ++ d) } := rfl

/-- A read command of a finalized digest answers what it reads. -/
theorem readView_of_finalized {s : State} {w : Nat} (hf : s.fin = true) (k : BitVec w) (view : BitVec w → Byte) :
    readView (some k) view s = respond (view k) s := by
  rw [readView, if_pos hf]

/-- A read command before the digest is finalized is refused. -/
theorem readView_of_open {s : State} {w : Nat} (hf : s.fin = false) (k : BitVec w) (view : BitVec w → Byte) :
    readView (some k) view s = raise .invalidState s := by
  rw [readView, hf, if_neg Bool.false_ne_true]

theorem exec_rdhex (k : BitVec 5) (s : State) : exec (.rdhex (k.setWidth 8)) s = .next (readView (some k) (hex s.h) s) := by
  rw [exec_of_isCommand rfl, commandResult, hexIndex_setWidth]

theorem exec_rddig (k : BitVec 4) (s : State) : exec (.rddig (k.setWidth 8)) s = .next (readView (some k) (dg s.h) s) := by
  rw [exec_of_isCommand rfl, commandResult, digIndex_setWidth]

/-- A command word as its opcode byte and its operand byte (R64). -/
theorem commandWord_eq_append (op : BitVec 4) (b : Byte) : commandWord op b = (op ++ 0#4) ++ b := by
  rw [commandWord, BitVec.append_assoc']
  rfl

/-- An operand of 32 or more has a bit above the five of RDHEX's index (R66). -/
theorem decodeCommand_rdhex_of_ge {b : Byte} (h : 32 ≤ b.toNat) :
    decodeCommand (0x40#8 ++ b) = .error .operandBits := by
  have hx : b.extractLsb' 5 3 ≠ 0 := by revert b; decide +kernel
  exact (congrArg decodeCommand (commandWord_eq_append 4 b)).symm.trans
    ((decodeCommand_rdhexWord b).trans (if_neg hx))

/-- An operand of 16 or more has a bit above the four of RDDIG's index (R66). -/
theorem decodeCommand_rddig_of_ge {b : Byte} (h : 16 ≤ b.toNat) :
    decodeCommand (0x50#8 ++ b) = .error .operandBits := by
  have hx : b.extractLsb' 4 4 ≠ 0 := by revert b; decide +kernel
  exact (congrArg decodeCommand (commandWord_eq_append 5 b)).symm.trans
    ((decodeCommand_rddigWord b).trans (if_neg hx))

theorem decodeCommand_rdhex_or (k : BitVec 5) :
    decodeCommand (0x4000 ||| k.setWidth 16) = .ok (.rdhex (k.setWidth 8)) :=
  (decodeCommand_eq_rdhex_iff _ k).mpr (by revert k; decide)

theorem decodeCommand_rddig_or (k : BitVec 4) :
    decodeCommand (0x5000 ||| k.setWidth 16) = .ok (.rddig (k.setWidth 8)) :=
  (decodeCommand_eq_rddig_iff _ k).mpr (by revert k; decide)

/-- Settles O24: the word by its pattern, the character by the view `hex`, which is the reference string. -/
theorem rdhexReadsCharacter : Obligations.RdhexReadsCharacter := by
  unfold Obligations.RdhexReadsCharacter
  refine ⟨fun _ h => ⟨_, decodeCommand_rdhex_of_ge h⟩, fun k s => ⟨decodeCommand_rdhex_or k, fun hf => ?_, fun hf => ?_, ?_⟩⟩
  · rw [exec_rdhex, readView_of_finalized hf, hex_eq_hexString, respond_eq]
  · rw [exec_rdhex, readView_of_open hf, raise_invalidState]
  · rw [← hex_eq_hexString]
    exact hex_range s.h k

/-- Settles O25: the word by its pattern, the byte by the view `dg`, and its two digits by their place in the string. -/
theorem rddigReadsByte : Obligations.RddigReadsByte := by
  unfold Obligations.RddigReadsByte
  refine ⟨fun _ h => ⟨_, decodeCommand_rddig_of_ge h⟩, fun k s => ⟨decodeCommand_rddig_or k, fun hf => ?_, fun hf => ?_, ?_⟩⟩
  · rw [exec_rddig, readView_of_finalized hf, dg_eq_digestBytes, respond_eq]
  · rw [exec_rddig, readView_of_open hf, raise_invalidState]
  · rw [← dg_eq_digestBytes]
    simp only [← hexDigit_eq_asciiDigits]
    exact hexString_getD_pair s.h k

end Sys2Proof.Machine
end

section
/-! SUPPORT. Which command is performed in which state (40_host_commands.md R89), and the commands that are legal in every
state: NOP, INIT and RDSTAT (R81, R82, R88). -/
namespace Sys2Proof.Machine

/-- A command and a state that R89 does not let go together: an absorption of a finalized message, or a read of a digest that
is not finalized. -/
abbrev StateForbids (i : Instr) (s : State) : Prop :=
  (s.fin = true ∧ ((∃ b, i = .update b) ∨ i = .digest)) ∨
  (s.fin = false ∧ ((∃ k, i = .rdhex k) ∨ ∃ k, i = .rddig k))

/-- A read command's answer by FIN. -/
theorem readView_rsp_by_fin {w : Nat} (k : BitVec w) (view : BitVec w → Byte) (s : State) :
    (s.fin = false ∧ (readView (some k) view s).rsp = some 0x0100) ∨
    (s.fin = true ∧ ∃ d, (readView (some k) view s).rsp = some (responseWord 0 d)) := by
  cases hf : s.fin
  · exact .inl ⟨rfl, by rw [readView_of_open hf]; rfl⟩
  · exact .inr ⟨rfl, _, by rw [readView_of_finalized hf]; rfl⟩

/-- The answer of a well-formed command: 0x0100 where the state forbids it, return code 0 otherwise (R89). -/
theorem commandResult_rsp_of_wf {i : Instr} (hc : i.isCommand) (hwf : i.wf) (s : State) :
    (StateForbids i s ∧ (commandResult i s).rsp = some 0x0100) ∨
    (¬StateForbids i s ∧ ∃ d, (commandResult i s).rsp = some (responseWord 0 d)) := by
  cases i with
  | nop | init | rdstat => exact .inr ⟨by simp [StateForbids], _, rfl⟩
  | update | digest =>
    cases hf : s.fin
    · exact .inr ⟨by simp [StateForbids, hf], 0, by simp [commandResult, hf]⟩
    · exact .inl ⟨by simp [StateForbids, hf], by rw [commandResult, if_pos hf]; rfl⟩
  | rdhex b =>
    obtain ⟨k, rfl⟩ := exists_setWidth_five (eq_of_beq hwf)
    rw [commandResult, hexIndex_setWidth]
    rcases readView_rsp_by_fin k (hex s.h) s with ⟨hf, h⟩ | ⟨hf, h⟩
    · exact .inl ⟨by simp [StateForbids, hf], h⟩
    · exact .inr ⟨by simp [StateForbids, hf], h⟩
  | rddig b =>
    obtain ⟨k, rfl⟩ := exists_setWidth_four (eq_of_beq hwf)
    rw [commandResult, digIndex_setWidth]
    rcases readView_rsp_by_fin k (dg s.h) s with ⟨hf, h⟩ | ⟨hf, h⟩
    · exact .inl ⟨by simp [StateForbids, hf], h⟩
    · exact .inr ⟨by simp [StateForbids, hf], h⟩
  | _ => simp [Instr.isCommand, encode] at hc

/-- The registers of a finalized message are in `t` as in `s` (R89). -/
abbrev MessageFrozen (s t : State) : Prop :=
  t.h = s.h ∧ t.cnt = s.cnt ∧ t.len = s.len ∧ t.buf = s.buf ∧ t.fin = true

/-- With FIN = 1 only INIT touches the message (R89). -/
theorem commandResult_frozen {i : Instr} (hc : i.isCommand) {s : State} (hf : s.fin = true) (hi : i ≠ .init) :
    MessageFrozen s (commandResult i s) := by
  rcases commandResult_ways hc s with ⟨e, hw⟩ | ⟨d, hw⟩ | ⟨hinit, -⟩ | ⟨hopen, -⟩ | ⟨hopen, -⟩
  · simp [MessageFrozen, hw, hf]
  · simp [MessageFrozen, hw, hf]
  · exact absurd hinit hi
  all_goals cases hopen.symm.trans hf

theorem responseWord_ok_ne_invalidState (d : Byte) : responseWord 0 d ≠ 0x0100 := by
  revert d; decide +kernel

theorem responseWord_ok_high (d : Byte) : (responseWord 0 d).extractLsb' 8 8 = 0 := BitVec.extractLsb'_append_eq_left

/-- Settles O30: the answer by `commandResult_rsp_of_wf`, the frozen registers by how a command can end with FIN = 1. -/
theorem legalityTable : Obligations.LegalityTable := by
  unfold Obligations.LegalityTable
  intro i s hc hwf
  rcases commandResult_rsp_of_wf hc hwf s with ⟨hbad, h⟩ | ⟨hgood, d, h⟩
  · exact ⟨_, _, exec_of_isCommand hc s, h, absurd rfl, iff_of_true rfl hbad, commandResult_frozen hc⟩
  · exact ⟨_, _, exec_of_isCommand hc s, h, fun _ => responseWord_ok_high d,
      iff_of_false (responseWord_ok_ne_invalidState d) hgood, commandResult_frozen hc⟩

/-- A word with the opcode of NOP and any other bit set is illegal (R67, R81). -/
theorem decodeCommand_error_of_opcode_zero {w : PortWord} (hop : opField w = 0) (hw : w ≠ 0x0000) :
    ∃ e, decodeCommand w = .error e := by
  rcases word_cases w with h7 | ⟨h6, hr⟩ | ⟨op, b, -, rfl⟩
  · exact ⟨_, decodeCommand_of_reserved_opcode h7⟩
  · exact ⟨_, decodeCommand_of_reserved_bits h6 hr⟩
  · obtain rfl : op = 0 := by simpa [commandWord_eq_packWord] using hop
    have hb : b ≠ 0 := by rintro rfl; exact hw rfl
    exact ⟨_, (decodeCommand_nopWord b).trans (if_neg hb)⟩

/-- Settles O15: the word by its encoding, the illegal neighbours by the class of each, the answer by the meaning. -/
theorem nopAnswersOnly : Obligations.NopAnswersOnly := by
  unfold Obligations.NopAnswersOnly
  refine ⟨fun w => ?_, fun w hop hw => decodeCommand_error_of_opcode_zero hop hw, fun s => rfl⟩
  exact (decodeCommand_eq_ok_iff rfl rfl).trans eq_comm

/-- With FIN = 1 no instruction but INIT clears it: a ROM step does not write it, a host command leaves it (R27, R82). -/
theorem fin_kept_of_ne_init {i : Instr} {s t : State} (hf : s.fin = true) (h : exec i s = .next t) (hi : i ≠ .init) :
    t.fin = true := by
  rcases exec_cases i s with ⟨hc, h'⟩ | ⟨-, k, -, h'⟩ <;> cases h.symm.trans h'
  · obtain ⟨-, -, -, -, hfin⟩ := commandResult_frozen hc hf hi
    exact hfin
  · rw [romStep_eq]
    exact hf

/-- Settles O16: the word by its encoding, the effect by the meaning, and FIN stays in every other instruction. -/
theorem initResetsMessage : Obligations.InitResetsMessage := by
  unfold Obligations.InitResetsMessage
  refine ⟨fun w => (decodeCommand_eq_ok_iff rfl rfl).trans eq_comm, fun s => rfl, fun i s t hf h ht => ?_⟩
  by_contra hi
  cases ht.symm.trans (fin_kept_of_ne_init hf h hi)

/-- STATUS as a number, one bit for each flag (R29). -/
theorem responseWord_statusReg (s : State) : responseWord 0 (statusReg s) =
    BitVec.ofNat 16 (4 * s.errIC.toNat + 2 * s.errIS.toNat + s.fin.toNat) := by
  rw [statusReg]
  cases s.errIC <;> cases s.errIS <;> cases s.fin <;> rfl

/-- Settles O17: the word by its encoding, the answer by the value of STATUS. -/
theorem rdstatReadsStatus : Obligations.RdstatReadsStatus := by
  unfold Obligations.RdstatReadsStatus
  refine ⟨fun w => (decodeCommand_eq_ok_iff rfl rfl).trans eq_comm, fun s => ?_⟩
  rw [← responseWord_statusReg]
  rfl

end Sys2Proof.Machine
end

section
/-! SUPPORT. A message from its first byte to its digest (41_padding_finalization.md R100 to R106): UPDATE of each byte, the
padding of DIGEST against `Pad`, and the two known answers. -/
namespace Sys2Proof.Machine

/-- Settles O23: the two cases of the rule. -/
theorem paddingLengthByResidue : Obligations.PaddingLengthByResidue := by
  unfold Obligations.PaddingLengthByResidue
  intro n
  have hlt := n.isLt
  by_cases h : n.toNat < 56
  · rw [padLength, if_pos h]; omega
  · rw [padLength, if_neg h]; omega

/-- A waiting response does not enter an absorption, and it leaves it. -/
theorem absorbAll_rsp (bs : List Byte) (s : State) (r : Option PortWord) :
    absorbAll bs { s with rsp := r } = { absorbAll bs s with rsp := r } := by
  obtain ⟨-, -, -, -, hhost, htaken⟩ := absorbAll_frame bs s
  refine (absorbAll_ports bs s r s.host s.taken).trans ?_
  rw [← hhost, ← htaken]

/-- UPDATE of each byte of an open message absorbs them in turn and answers OK to each (R83). -/
theorem feed_of_open (m : List Byte) {s : State} (hf : s.fin = false) :
    feed m s = .next { absorbAll m s with rsp := if m = [] then s.rsp else some 0x0000 } := by
  induction m generalizing s with
  | nil => rfl
  | cons b m ih =>
    have hfin : (respond 0 (absorb b s)).fin = false := (absorb_frame b s).1.trans hf
    have hrsp : (respond 0 (absorb b s)).rsp = some 0x0000 := rfl
    have hm : absorbAll m (respond 0 (absorb b s)) = { absorbAll m (absorb b s) with rsp := some 0x0000 } :=
      absorbAll_rsp m (absorb b s) (some 0x0000)
    rw [feed, exec_update_of_open hf]
    simp only [ih hfin, hm, hrsp, ite_self, absorbAll_cons, reduceCtorEq, if_false]

/-- The padding length by LEN is the one by the message length (R100). -/
theorem padLength_eq_md5 {n : BitVec 6} {L : Nat} (h : n.toNat = L % 64) : padLength n = Md5.padLength L := by
  rw [padLength, Md5.padLength, h]
  split <;> split <;> omega

/-- What DIGEST absorbs after a message is what `Pad` puts behind it (R101, R102, R105). -/
theorem append_finalBytes_eq_pad {n : BitVec 6} {m : List Byte} (h : n.toNat = m.length % 64) :
    m ++ finalBytes n (BitVec.ofNat 64 (8 * m.length)) = Md5.pad m := by
  rw [finalBytes, Md5.pad, padLength_eq_md5 h, trailer_eq]
  simp

theorem pad_length (m : List Byte) : (Md5.pad m).length = m.length + Md5.padLength m.length + 8 := by
  have hpos : 1 ≤ Md5.padLength m.length := by rw [Md5.padLength]; split <;> omega
  simp only [Md5.pad, Md5.le64, List.length_append, List.length_replicate, List.length_cons, List.length_nil]
  omega

theorem pad_length_of_le {m : List Byte} (h : m.length % 64 ≤ 55) : (Md5.pad m).length = 64 * (m.length / 64 + 1) := by
  rw [pad_length, Md5.padLength, if_pos h]; omega

theorem pad_length_of_ge {m : List Byte} (h : 56 ≤ m.length % 64) : (Md5.pad m).length = 64 * (m.length / 64 + 2) := by
  rw [pad_length, Md5.padLength, if_neg (by omega)]; omega

/-- The padded message ends at a block boundary (R104). -/
theorem pad_length_mod (m : List Byte) : (Md5.pad m).length % 64 = 0 := by
  rw [pad_length, Md5.padLength]; split <;> omega

/-- A state from which a message starts: what INIT or reset leaves of H, CNT, LEN and FIN (R35, R82). -/
structure MessageStart (s : State) : Prop where
  h_iv : s.h = Quad.iv
  cnt_zero : s.cnt = 0
  len_zero : s.len = 0
  fin_false : s.fin = false

theorem messageStart_reset : MessageStart State.reset := ⟨rfl, rfl, rfl, rfl⟩

theorem messageStart_init (s : State) : MessageStart (commandResult .init s) := ⟨rfl, rfl, rfl, rfl⟩

section Message
variable {s : State} (hs : MessageStart s) (m : List Byte)
include hs

/-- From the start of a message the complete blocks are compressed, and LEN and CNT count its bytes (R13, R24). -/
theorem absorbAll_of_start :
    (absorbAll m s).h = Md5.compressBlocks (m.length / 64) Quad.iv m ∧
    (absorbAll m s).len.toNat = m.length % 64 ∧ (absorbAll m s).cnt = BitVec.ofNat 64 (8 * m.length) := by
  have hlen : s.len.toNat = 0 := by rw [hs.len_zero]; rfl
  have hpend : pendingBytes s = [] := by rw [pendingBytes, hlen]; rfl
  obtain ⟨hh, hl, -⟩ := absorbAll_blocks m s
  rw [hlen, Nat.zero_add, hpend, hs.h_iv] at hh
  rw [hlen, Nat.zero_add] at hl
  refine ⟨hh, hl, ?_⟩
  rw [absorbAll_cnt, hs.cnt_zero]
  exact BitVec.zero_add _

/-- The message and then the bytes of DIGEST are the padded message (R104, R105). -/
theorem absorbAll_finalBytes_of_start :
    absorbAll (finalBytes (absorbAll m s).len (absorbAll m s).cnt) (absorbAll m s) = absorbAll (Md5.pad m) s := by
  obtain ⟨-, hlen, hcnt⟩ := absorbAll_of_start hs m
  rw [hcnt, ← absorbAll_append, append_finalBytes_eq_pad hlen]

/-- DIGEST after the message, whatever response waits: the padded message is absorbed and FIN set (R85). -/
theorem exec_digest_of_fed (r : Option PortWord) :
    exec .digest { absorbAll m s with rsp := r } =
      .next { absorbAll (Md5.pad m) s with rsp := some 0x0000, fin := true } := by
  have hfin : (absorbAll m s).fin = false := (absorbAll_frame m s).1.trans hs.fin_false
  rw [exec_digest_of_open (s := { absorbAll m s with rsp := r }) hfin, absorbAll_rsp, absorbAll_finalBytes_of_start hs m]
  rfl

end Message

/-- Settles O46: UPDATE and DIGEST absorb the padded message, block after block. -/
theorem messageIsDigested : Obligations.MessageIsDigested := by
  unfold Obligations.MessageIsDigested
  intro m s hiv hcnt hlen hf
  have hs : MessageStart s := ⟨hiv, hcnt, hlen, hf⟩
  obtain ⟨hblocks, -, -⟩ := absorbAll_of_start hs m
  obtain ⟨hdigest, hlen', hcnt'⟩ := absorbAll_of_start hs (Md5.pad m)
  obtain ⟨-, hIS, hIC, -⟩ := absorbAll_frame (Md5.pad m) s
  have hzero : (absorbAll (Md5.pad m) s).len = 0 := BitVec.eq_of_toNat_eq (hlen'.trans (pad_length_mod m))
  exact ⟨⟨_, _, feed_of_open m hf, hblocks, exec_digest_of_fed hs m _, hdigest, hzero, hcnt', rfl, hIS, hIC, rfl⟩,
    pad_length_of_le, pad_length_of_ge⟩

theorem digest_of_empty : Md5.digest [] = ⟨0xD98C1DD4, 0x04B2008F, 0x980980E9, 0x7E42F8EC⟩ := by decide +kernel

theorem digest_of_abc : Md5.digest [0x61, 0x62, 0x63] = ⟨0x98500190, 0xB04FD23C, 0x7D3F96D6, 0x727FE128⟩ := by
  decide +kernel

/-- Settles O49: the digest words by evaluation of the reference, then their characters. -/
theorem knownAnswers : Obligations.KnownAnswers := by
  unfold Obligations.KnownAnswers
  rw [digest_of_empty, digest_of_abc]
  decide +kernel

end Sys2Proof.Machine
end

section
/-! SUPPORT. The block transformer (42_block_transform.md): the round functions bit by bit, the rows of the ROM table, the
inverse of a step, and the machine's 64 steps against `Transform`. -/
namespace Sys2Proof.Machine

/-! The round functions (R113 to R116). -/

theorem fnF_getLsbD (x y z : Word) {j : Nat} (hj : j < 32) :
    (fnF x y z).getLsbD j = if x.getLsbD j then y.getLsbD j else z.getLsbD j := by
  simp only [fnF, BitVec.getLsbD_or, BitVec.getLsbD_and, BitVec.getLsbD_not, decide_eq_true hj]
  cases x.getLsbD j <;> simp

/-- G is F with its operands turned. -/
theorem fnG_eq_fnF (x y z : Word) : fnG x y z = fnF z x y := by
  rw [fnG, fnF, BitVec.and_comm x z, BitVec.and_comm y]

theorem fnH_getLsbD (x y z : Word) (j : Nat) :
    (fnH x y z).getLsbD j = (x.getLsbD j ^^ (y.getLsbD j ^^ z.getLsbD j)) := by
  simp [fnH]

theorem fnI_getLsbD (x y z : Word) {j : Nat} (hj : j < 32) :
    (fnI x y z).getLsbD j = (y.getLsbD j ^^ (x.getLsbD j || !z.getLsbD j)) := by
  simp [fnI, hj]

/-- Settles O7: F is a selection bit by bit, G is F turned, H and I by their operators. -/
theorem roundFunctionsBitwise : Obligations.RoundFunctionsBitwise := by
  unfold Obligations.RoundFunctionsBitwise
  intro x y z j hj
  refine ⟨fnF_getLsbD x y z hj, ?_, fnG_eq_fnF x y z, fnH_getLsbD x y z j, fnI_getLsbD x y z hj⟩
  rw [fnG_eq_fnF]
  exact fnF_getLsbD z x y hj

/-- Settles O13: the word is the four bytes appended, whose value is the rule's sum. -/
theorem messageWordIsLittleEndian : Obligations.MessageWordIsLittleEndian := by
  unfold Obligations.MessageWordIsLittleEndian
  intro s j
  rw [msgWord_eq_append, bytes_append_toNat]

/-! The rows of the table of R124. -/

/-- The function that the field `fn` names (R70). -/
def RoundFn.apply : RoundFn → Word → Word → Word → Word
  | .F => fnF
  | .G => fnG
  | .H => fnH
  | .I => fnI

theorem romStep_eq_apply (i : BitVec 6) (s : State) : romStep i s = stepWith (rom i).fn.apply i s := by
  unfold romStep
  cases (rom i).fn <;> rfl

/-- A row of the table is the ROM's: its instruction is encoded by its index, where the entry with round function `fn` and
the row's fields stands, and the fields fit (R70). -/
abbrev RowMatches (fn : RoundFn) (e : RomRow) : Prop :=
  encode e.instr = .rom e.i ∧ rom e.i = ⟨fn, BitVec.ofNat 4 e.g, BitVec.ofNat 5 e.s, e.k⟩ ∧ e.g < 16 ∧ e.s < 32

/-- The step at a matching row's index is the pseudocode with the row's fields. -/
theorem stepWith_of_rowMatches {fn : RoundFn} {e : RomRow} (h : RowMatches fn e) (f : Word → Word → Word → Word)
    (s : State) : stepWith f e.i s = e.result f s := by
  obtain ⟨-, hrom, hg, hs⟩ := h
  have hg' : (BitVec.ofNat 4 e.g).toNat = e.g := Nat.mod_eq_of_lt hg
  have hs' : (BitVec.ofNat 5 e.s).toNat = e.s := Nat.mod_eq_of_lt hs
  simp only [stepWith, stepRegs, RomRow.result, krom, srom, hrom, msgWord_eq_append, hg', hs', rotl32_eq_rotateLeft _ hs]

theorem exec_of_rowMatches {fn : RoundFn} {e : RomRow} (h : RowMatches fn e) (s : State) :
    exec e.instr s = .next (e.result fn.apply s) := by
  have hstep := stepWith_of_rowMatches h fn.apply s
  obtain ⟨henc, hrom, -⟩ := h
  rw [exec_of_encode_rom henc, romStep_eq_apply, hrom, hstep]

/-- What the four obligations on the rows say, for any list of rows that match the ROM. -/
theorem rows_run_as_specified {fn : RoundFn} {rows : List RomRow} (h : ∀ e ∈ rows, RowMatches fn e) :
    ∀ e ∈ rows, encode e.instr = .rom e.i ∧ rom e.i = ⟨fn, BitVec.ofNat 4 e.g, BitVec.ofNat 5 e.s, e.k⟩ ∧
      ∀ s : State, exec e.instr s = .next (e.result fn.apply s) := by
  intro e he
  obtain ⟨henc, hrom, -⟩ := h e he
  exact ⟨henc, hrom, exec_of_rowMatches (h e he)⟩

/-- Settles O8: the 16 rows match the ROM's entries, and a matching row runs as its pseudocode. -/
theorem ffStepsRunAsSpecified : Obligations.FFStepsRunAsSpecified :=
  rows_run_as_specified (fn := .F) (by decide +kernel)

/-- Settles O9: the 16 rows match the ROM's entries, and a matching row runs as its pseudocode. -/
theorem ggStepsRunAsSpecified : Obligations.GGStepsRunAsSpecified :=
  rows_run_as_specified (fn := .G) (by decide +kernel)

/-- Settles O10: the 16 rows match the ROM's entries, and a matching row runs as its pseudocode. -/
theorem hhStepsRunAsSpecified : Obligations.HHStepsRunAsSpecified :=
  rows_run_as_specified (fn := .H) (by decide +kernel)

/-- Settles O11: the 16 rows match the ROM's entries, and a matching row runs as its pseudocode. -/
theorem iiStepsRunAsSpecified : Obligations.IIStepsRunAsSpecified :=
  rows_run_as_specified (fn := .I) (by decide +kernel)

/-! The inverse of a step (R128). -/

/-- Rotating the rest of the way round gives the word back. -/
theorem rotl32_rotl32 (v : Word) {r : Nat} (h0 : 0 < r) (h : r < 32) : rotl32 (rotl32 v r) (32 - r) = v := by
  rw [rotl32_eq_rotateLeft _ h, rotl32_eq_rotateLeft _ (by omega)]
  ext i hi
  simp only [BitVec.getElem_rotateLeft, Nat.mod_eq_of_lt h, Nat.mod_eq_of_lt (show 32 - r < 32 by omega)]
  split
  · rw [dif_neg (by omega)]; congr 1; omega
  · rw [dif_pos (by omega)]; congr 1; omega

/-- The registers before a step, from those after it. -/
def unstepRegs (f : Word → Word → Word → Word) (k m : Word) (r : Nat) (q : Quad) : Quad :=
  ⟨rotl32 (q.b - q.c) (32 - r) - f q.c q.d q.a - k - m, q.c, q.d, q.a⟩

section Inverse
variable (f : Word → Word → Word → Word) (k m : Word) {r : Nat}

theorem unstepRegs_stepRegs (h0 : 0 < r) (h : r < 32) (q : Quad) :
    unstepRegs f k m r (stepRegs f k m r q) = q := by
  simp only [unstepRegs, stepRegs, add_sub_cancel_left, rotl32_rotl32 _ h0 h]
  have hsum : ∀ v w : Word, v + w + k + m - w - k - m = v := fun v w => by ring
  rw [hsum]

theorem stepRegs_unstepRegs (h0 : 0 < r) (h : r < 32) (q : Quad) :
    stepRegs f k m r (unstepRegs f k m r q) = q := by
  have hrot : rotl32 (rotl32 (q.b - q.c) (32 - r)) r = q.b - q.c := by
    simpa [Nat.sub_sub_self h.le] using rotl32_rotl32 (q.b - q.c) (r := 32 - r) (by omega) (by omega)
  have hsum : ∀ v w : Word, v - w - k - m + w + k + m = v := fun v w => by ring
  simp only [unstepRegs, stepRegs, hsum, hrot, add_sub_cancel]

theorem stepRegs_bijective (h0 : 0 < r) (h : r < 32) : Function.Bijective (stepRegs f k m r) :=
  Function.bijective_iff_has_inverse.mpr
    ⟨unstepRegs f k m r, unstepRegs_stepRegs f k m h0 h, stepRegs_unstepRegs f k m h0 h⟩

end Inverse

theorem srom_pos (i : BitVec 6) : 0 < (srom i).toNat := (srom_eq i).symm ▸ (rotation_pos_lt i).1

theorem srom_lt (i : BitVec 6) : (srom i).toNat < 32 := (srom i).isLt

/-- R128's formula gives back the registers that a step started from. -/
theorem unstepRegs_romStep (i : BitVec 6) (s : State) :
    unstepRegs (Md5.fn i.toNat) (krom i) (msgWord s.buf (rom i).g) (srom i).toNat (romStep i s).x = s.x := by
  rw [romStep_eq_stepWith]
  exact unstepRegs_stepRegs _ _ _ (srom_pos i) (srom_lt i) s.x

theorem romStep_x_bijective (i : BitVec 6) (s : State) :
    Function.Bijective (fun q : Quad => (romStep i { s with x := q }).x) := by
  simp only [romStep_eq_stepWith, stepWith_x]
  exact stepRegs_bijective _ _ _ (srom_pos i) (srom_lt i)

/-- A step from other working registers differs in the working registers only. -/
theorem romStep_with_x (i : BitVec 6) (s : State) (q : Quad) :
    romStep i { s with x := q } = { s with x := (romStep i { s with x := q }).x, pc := s.pc + 1 } := by
  rw [romStep_eq_stepWith, stepWith]

theorem runSteps_x_bijective (n : Nat) (s : State) :
    Function.Bijective (fun q : Quad => (runSteps n { s with x := q }).x) := by
  induction n generalizing s with
  | zero => exact Function.bijective_id
  | succ n ih =>
    have hcomp : (fun q : Quad => (runSteps (n + 1) { s with x := q }).x) =
        (fun q => (runSteps n { s with x := q, pc := s.pc + 1 }).x) ∘ (fun q => (romStep s.pc { s with x := q }).x) := by
      funext q
      rw [runSteps, romStep_with_x]
      rfl
    rw [hcomp]
    exact (ih { s with pc := s.pc + 1 }).comp (romStep_x_bijective s.pc s)

/-- Settles O12: the formula undoes `stepRegs`, and 64 bijections in a row are one. -/
theorem stepsAreBijective : Obligations.StepsAreBijective := by
  unfold Obligations.StepsAreBijective
  refine ⟨fun i s => ?_, romStep_x_bijective, fun s => runSteps_x_bijective 64 { s with pc := 0 }⟩
  have h := unstepRegs_romStep i s
  exact ⟨congrArg Quad.b h.symm, congrArg Quad.c h.symm, congrArg Quad.d h.symm, congrArg Quad.a h.symm⟩

/-! The machine's steps against `Transform` (R110, R126). -/

/-- A run with one more step at its end. -/
theorem run_succ_last {s t : State} {n : Nat} (h : Host.Core.run Sys2Proof.core n s = .next t) {u : State}
    (hu : step t = .next u) : Host.Core.run Sys2Proof.core (n + 1) s = .next u :=
  (run_add n 1 h).trans (run_succ 0 hu)

section Transform
variable {s : State} (hr : ∀ rest, s.host ≠ .reset :: rest)

/-- The first `n` steps of a `Transform`: `x` by the formulas, `pc = n`, nothing else. -/
theorem runSteps_startTransform {n : Nat} (hn : n ≤ 64) : runSteps n (startTransform s) =
    { startTransform s with x := Md5.registers n s.h (bufBytes s.buf), pc := BitVec.ofNat 6 n } :=
  runSteps_eq n hn (startTransform s) rfl

include hr

/-- The machine inside a `Transform` runs the entry at `pc`, and the add-in follows the 64th step. -/
theorem step_of_runSteps {n : Nat} (hn : n ≤ 63) : step (runSteps n (startTransform s)) =
    .next (if n = 63 then finishTransform (runSteps (n + 1) (startTransform s)) else runSteps (n + 1) (startTransform s)) := by
  have hpc : (runSteps n (startTransform s)).pc = BitVec.ofNat 6 n := by rw [runSteps_startTransform (by omega)]
  have h63 : BitVec.ofNat 6 n = 63 ↔ n = 63 := by
    rw [← BitVec.toNat_inj, BitVec.toNat_ofNat, Nat.mod_eq_of_lt (by omega)]
    rfl
  rw [step_of_running (by rw [runSteps_startTransform (by omega)]; exact hr)
    (by rw [runSteps_startTransform (by omega)]; rfl), ← runSteps_succ]
  simp only [hpc, h63]

theorem run_startTransform {n : Nat} (hn : n ≤ 63) :
    Host.Core.run Sys2Proof.core n (startTransform s) = .next (runSteps n (startTransform s)) := by
  induction n with
  | zero => rfl
  | succ n ih =>
    refine run_succ_last (ih (by omega)) ?_
    rw [step_of_runSteps hr (by omega), if_neg (by omega)]

theorem run_transform : Host.Core.run Sys2Proof.core 64 (startTransform s) = .next (transform s) :=
  run_succ_last (run_startTransform hr (n := 63) le_rfl) (step_of_runSteps hr le_rfl)

end Transform

/-- Settles O14: the run follows `runSteps` up to entry 63, whose step ends the `Transform`. -/
theorem transformIsItsSixtyFourSteps : Obligations.TransformIsItsSixtyFourSteps := by
  unfold Obligations.TransformIsItsSixtyFourSteps
  intro s hr
  refine ⟨fun n hn => ⟨_, run_startTransform hr hn, ?_⟩, run_transform hr, transform_eq s⟩
  rw [runSteps_startTransform (by omega)]
  exact ⟨Nat.mod_eq_of_lt (show n < 2 ^ 6 by omega), rfl, rfl, rfl⟩

end Sys2Proof.Machine
end

section
/-! SUPPORT. The whole string that RDHEX 0 to RDHEX 31 read out, and its two worked examples (43_serializer.md R133). -/
namespace Sys2Proof.Machine

theorem length_hexString (h : Quad) : (Md5.hexString h).length = 32 := rfl

/-- The 32 characters of the view, character 0 first, are the reference string and nothing else (R133). -/
theorem map_hex_range (h : Quad) :
    (List.range 32).map (fun k => hex h (BitVec.ofNat 5 k)) = Md5.hexString h := by
  refine List.ext_getElem (by rw [List.length_map, List.length_range, length_hexString]) fun k hk hk' => ?_
  have hmod : (BitVec.ofNat 5 k).toNat = k :=
    (BitVec.toNat_ofNat k 5).trans (Nat.mod_eq_of_lt (hk'.trans_eq (length_hexString h)))
  rw [List.getElem_map, List.getElem_range, hex_eq_hexString, hmod, List.getD_eq_getElem _ _ hk']

/-- Settles O26: what is read out is the reference string of the four words, here evaluated at the two digests. -/
theorem serializerExamples : Obligations.SerializerExamples := by
  unfold Obligations.SerializerExamples
  rw [map_hex_range, map_hex_range]
  constructor
  · decide
  · decide

end Sys2Proof.Machine
end

section
/-! SUPPORT. The errors of host commands (60_exceptions.md R140 to R143): what is refused with InvalidState, and that an error
is precise. -/
namespace Sys2Proof.Machine

/-- UPDATE with FIN = 1 is refused (R83, R141). -/
theorem exec_update_of_finalized {s : State} (hf : s.fin = true) (b : Byte) :
    exec (.update b) s = .next (raise .invalidState s) := by
  rw [exec_of_isCommand rfl, commandResult, if_pos hf]

/-- DIGEST with FIN = 1 is refused (R85, R141). -/
theorem exec_digest_of_finalized {s : State} (hf : s.fin = true) : exec .digest s = .next (raise .invalidState s) := by
  rw [exec_of_isCommand rfl, commandResult, if_pos hf]

/-- Settles O27: each of the four commands raises InvalidState, whose effect is `raise_invalidState`. -/
theorem invalidStateIsRefused : Obligations.InvalidStateIsRefused := by
  unfold Obligations.InvalidStateIsRefused
  refine ⟨fun b s hf => ?_, fun s hf => ?_, fun k s hf => ?_, fun k s hf => ?_⟩
  · rw [exec_update_of_finalized hf, raise_invalidState]
  · rw [exec_digest_of_finalized hf, raise_invalidState]
  · rw [exec_rdhex, readView_of_open hf, raise_invalidState]
  · rw [exec_rddig, readView_of_open hf, raise_invalidState]

/-- From `s` to `t` an error's answer comes with its whole effect and no other, and a sticky bit changes with its own answer
only (R143). -/
abbrev ErrorPrecise (s t : State) : Prop :=
  (t.rsp = some 0x0100 → t = { s with errIS := true, rsp := some 0x0100 }) ∧
  (t.rsp = some 0x0200 → t = { s with errIC := true, rsp := some 0x0200 }) ∧
  (t.rsp ≠ some 0x0100 → t.errIS = s.errIS) ∧ (t.rsp ≠ some 0x0200 → t.errIC = s.errIC)

theorem responseWord_ok_ne_illegalCommand (d : Byte) : responseWord 0 d ≠ 0x0200 := by
  revert d; decide +kernel

/-- The answer of one cause is not the other's, and each sets its own bit. -/
theorem errorPrecise_raise (e : Cause) (s : State) : ErrorPrecise s (raise e s) := by
  cases e with
  | invalidState =>
    rw [raise_invalidState]
    exact ⟨fun _ => rfl, fun h => absurd (Option.some.inj h) (by decide), absurd rfl, fun _ => rfl⟩
  | illegalCommand =>
    rw [raise_illegalCommand]
    exact ⟨fun h => absurd (Option.some.inj h) (by decide), fun _ => rfl, fun _ => rfl, absurd rfl⟩

/-- An answer of return code 0 is no error's, so only the sticky bits matter. -/
theorem errorPrecise_of_ok {s t : State} {d : Byte} (hrsp : t.rsp = some (responseWord 0 d)) (hIS : t.errIS = s.errIS)
    (hIC : t.errIC = s.errIC) : ErrorPrecise s t :=
  ⟨fun h => absurd (Option.some.inj (hrsp.symm.trans h)) (responseWord_ok_ne_invalidState d),
    fun h => absurd (Option.some.inj (hrsp.symm.trans h)) (responseWord_ok_ne_illegalCommand d), fun _ => hIS, fun _ => hIC⟩

/-- Settles O31: a host command answers with return code 0 and keeps both sticky bits, or raises one of the two errors. -/
theorem errorsArePrecise : Obligations.ErrorsArePrecise := by
  unfold Obligations.ErrorsArePrecise
  intro i s hc
  refine ⟨_, exec_of_isCommand hc s, ?_⟩
  rcases commandResult_cases hc s with ⟨d, hrsp, hIS, hIC⟩ | h | h
  · exact errorPrecise_of_ok hrsp hIS hIC
  · exact h ▸ errorPrecise_raise .invalidState s
  · exact h ▸ errorPrecise_raise .illegalCommand s

end Sys2Proof.Machine
end

section
/-! SUPPORT. Hard reset, and that no state is stuck (70_reset_and_hazards.md R160, R161, R168). -/
namespace Sys2Proof.Machine

/-- An accepted word is answered, legal or not (R80, R142). -/
theorem runCommand_goes_on (w : PortWord) (s : State) : ∃ t, runCommand w s = .next t := by
  rcases runCommand_cases w s with ⟨_, -, h⟩ | ⟨_, -, -, -, h⟩
  · exact ⟨_, h⟩
  · exact ⟨_, h⟩

/-- Settles O40: every case of the step is a next state; the one that runs a command word is `runCommand_goes_on`. -/
theorem everyStepGoesOn : Obligations.EveryStepGoesOn := by
  unfold Obligations.EveryStepGoesOn
  intro s
  rcases step_cases s with ⟨_, -, h⟩ | ⟨-, -, h⟩ | ⟨-, -, h⟩ | ⟨_, -, -, h⟩ | ⟨w, rest, -, -, ⟨-, h⟩ | ⟨-, h⟩⟩
  · exact ⟨_, h⟩
  · exact ⟨_, h⟩
  · exact ⟨_, h⟩
  · exact ⟨_, h⟩
  · exact ⟨_, h⟩
  · rw [h]
    exact runCommand_goes_on w { s with host := rest }

/-- Settles O38: `rst` comes before anything else a step could do. -/
theorem resetFromAnyState : Obligations.ResetFromAnyState := by
  unfold Obligations.ResetFromAnyState
  intro s rest hh
  rw [step_of_reset hh, hardReset]

/-- Settles O39: the fields of the reset state, where the sequencer is idle and the host has no action. -/
theorem resetValues : Obligations.ResetValues := by
  unfold Obligations.ResetValues
  exact ⟨rfl, rfl, rfl, rfl, rfl, rfl, rfl, rfl, rfl, rfl, step_of_no_action rfl rfl⟩

end Sys2Proof.Machine
end

section
/-! SUPPORT. A message in parts, with commands between them that only answer (70_reset_and_hazards.md R167). -/
namespace Sys2Proof.Machine

/-- A message in two parts is the message. -/
theorem feed_append {m₁ : List Byte} {s t : State} (h : feed m₁ s = .next t) (m₂ : List Byte) :
    feed (m₁ ++ m₂) s = feed m₂ t := by
  induction m₁ generalizing s with
  | nil => cases h; rfl
  | cons b m₁ ih =>
    rw [feed, exec_of_isCommand rfl] at h
    rw [List.cons_append, feed, exec_of_isCommand rfl]
    exact ih h

/-- NOP and RDSTAT only answer (R81, R88). -/
theorem exec_pause {i : Instr} (hi : i = .nop ∨ i = .rdstat) (s : State) : ∃ d, exec i s = .next (respond d s) := by
  rcases hi with rfl | rfl
  · exact ⟨0, rfl⟩
  · exact ⟨statusReg s, rfl⟩

/-- An answer in between does not enter the absorption of what follows. -/
theorem absorbAll_respond (bs : List Byte) (d : Byte) (s : State) :
    { absorbAll bs (respond d s) with rsp := none } = { absorbAll bs s with rsp := none } := by
  rw [respond, absorbAll_rsp]

/-- Settles O47: both parts are absorbed in turn, with the pause or without. -/
theorem chunksAndPausesDoNotMatter : Obligations.ChunksAndPausesDoNotMatter := by
  unfold Obligations.ChunksAndPausesDoNotMatter
  intro m₁ m₂ i s hi hf
  have hfirst := feed_of_open m₁ hf
  generalize ht : { absorbAll m₁ s with rsp := if m₁ = [] then s.rsp else some 0x0000 } = t at hfirst
  have hopen : t.fin = false := by rw [← ht]; exact (absorbAll_frame m₁ s).1.trans hf
  obtain ⟨d, hpause⟩ := exec_pause hi t
  have hsecond := feed_of_open m₂ hopen
  exact ⟨t, respond d t, _, _, hfirst, hpause, feed_of_open m₂ hopen, (feed_append hfirst m₂).trans hsecond,
    absorbAll_respond m₂ d t, hsecond⟩

end Sys2Proof.Machine
end

section
/-! SUPPORT. A host that presents words in turn and takes each response (30_encoding.md R61, R62, R72,
70_reset_and_hazards.md R173): what it reads, part by part of its list of words. -/
namespace Sys2Proof.Machine

/-- `s` with no response waiting, before a host that will do `hs` and has taken `tk`. -/
def atHost (hs : List HostAction) (tk : List PortWord) (s : State) : State := { s with rsp := none, host := hs, taken := tk }

theorem atHost_self {s : State} (hr : s.rsp = none) : atHost s.host s.taken s = s := by
  rw [atHost, ← hr]

/-- A host that presents the words `ws` to an engine that waits in `s` takes the answers `as`, two steps for each word, and
the engine then waits in `t`; whatever the host has taken before and does after. -/
def Serves (ws : List PortWord) (s : State) (as : List PortWord) (t : State) : Prop :=
  s.seq = .idle → t.seq = .idle ∧ ∀ rest tk,
    Host.Core.run Sys2Proof.core (2 * ws.length) (atHost (hostScript ws ++ rest) tk s) = .next (atHost rest (tk ++ as) t)

theorem serves_nil (s : State) : Serves [] s [] s :=
  fun hs => ⟨hs, fun rest tk => by rw [List.append_nil]; rfl⟩

theorem serves_append {ws vs as bs : List PortWord} {s t u : State} (hst : Serves ws s as t) (htu : Serves vs t bs u) :
    Serves (ws ++ vs) s (as ++ bs) u := by
  intro hs
  obtain ⟨ht, hrun⟩ := hst hs
  obtain ⟨hu, hrun'⟩ := htu ht
  refine ⟨hu, fun rest tk => ?_⟩
  have hscript : hostScript (ws ++ vs) ++ rest = hostScript ws ++ (hostScript vs ++ rest) := by
    rw [hostScript, List.flatMap_append, List.append_assoc]; rfl
  rw [List.length_append, Nat.mul_add, hscript, run_add _ _ (hrun _ tk), hrun', List.append_assoc]

/-- One word that is answered OK with data `d`. -/
theorem serves_of_exec {w : PortWord} {i : Instr} {d : Byte} {s t : State} (hd : decodeCommand w = .ok i)
    (he : exec i s = .next (respond d t)) : Serves [w] s [0x00#8 ++ d] t := by
  intro hs
  have hc := isCommand_of_decodeCommand hd
  have hresult : commandResult i s = respond d t := Host.Outcome.next.inj ((exec_of_isCommand hc s).symm.trans he)
  have ht : (respond d t).seq = .idle := hresult ▸ commandResult_seq hc hs
  refine ⟨ht, fun rest tk => ?_⟩
  obtain ⟨u, hu, hports⟩ := commandsIgnorePorts i s none (.take :: rest) tk hc
  cases hu.symm.trans he
  have hrun : runCommand w (atHost (.take :: rest) tk s) = .next { respond d t with host := .take :: rest, taken := tk } := by
    rw [runCommand, hd]
    exact hports
  exact run_command_take (s := atHost (hostScript [w] ++ rest) tk s) rfl hs rfl hrun rfl ht rfl

theorem decodeCommand_update_append (b : Byte) : decodeCommand (0x20#8 ++ b) = .ok (.update b) :=
  (congrArg decodeCommand (updateWord_eq_append b)).symm.trans (decodeCommand_updateWord b)

theorem decodeCommand_rdhex_add {k : Nat} (hk : k < 32) :
    decodeCommand (0x4000 + BitVec.ofNat 16 k) = .ok (.rdhex ((BitVec.ofNat 5 k).setWidth 8)) :=
  (decodeCommand_eq_rdhex_iff _ _).mpr (by revert k; decide)

/-- The UPDATEs of a message are answered OK and absorb it (R83). -/
theorem serves_updates (m : List Byte) {s : State} (hf : s.fin = false) :
    Serves (m.map (fun b => 0x20#8 ++ b)) s (List.replicate m.length 0x0000) (absorbAll m s) := by
  induction m generalizing s with
  | nil => exact serves_nil s
  | cons b m ih =>
    have hopen : (absorb b s).fin = false := (absorb_frame b s).1.trans hf
    exact serves_append (serves_of_exec (decodeCommand_update_append b) (exec_update_of_open hf b)) (ih hopen)

/-- RDHEXs of a finalized digest read its characters and leave it (R86). -/
theorem serves_rdhexs {s : State} (hf : s.fin = true) {ks : List Nat} (hks : ∀ k ∈ ks, k < 32) :
    Serves (ks.map (fun k => 0x4000 + BitVec.ofNat 16 k)) s (ks.map (fun k => 0x00#8 ++ hex s.h (BitVec.ofNat 5 k))) s := by
  induction ks with
  | nil => exact serves_nil s
  | cons k ks ih =>
    obtain ⟨hk, hks⟩ := List.forall_mem_cons.mp hks
    have hread : exec (.rdhex ((BitVec.ofNat 5 k).setWidth 8)) s = .next (respond (hex s.h (BitVec.ofNat 5 k)) s) := by
      rw [exec_rdhex, readView_of_finalized hf]
    exact serves_append (serves_of_exec (decodeCommand_rdhex_add hk) hread) (ih hks)

/-- INIT is answered OK, and a message starts (R82). -/
theorem serves_init (s : State) : Serves [0x1000] s [0x0000] (commandResult .init s) :=
  serves_of_exec (i := .init) (d := 0) rfl rfl

/-- DIGEST after the UPDATEs of a message is answered OK: the padded message is absorbed and FIN set (R85, R105). -/
theorem serves_digest {s : State} (hs : MessageStart s) (m : List Byte) :
    Serves [0x3000] (absorbAll m s) [0x0000] { absorbAll (Md5.pad m) s with fin := true } :=
  serves_of_exec (i := .digest) (d := 0) rfl (exec_digest_of_fed hs m (absorbAll m s).rsp)

theorem length_md5Words (m : List Byte) : (md5Words m).length = m.length + 34 := by
  simp only [md5Words, List.length_append, List.length_map, List.length_range, List.length_singleton]
  omega

/-- The host of `MD5 m` takes an OK answer to INIT, to each UPDATE and to DIGEST, and then the hex string of the digest
(R72, R133). -/
theorem serves_md5Words (m : List Byte) (s : State) :
    Serves (md5Words m) s
      (List.replicate (m.length + 2) 0x0000 ++ (Md5.hexString (Md5.digest m)).map (fun c => 0x00#8 ++ c))
      { absorbAll (Md5.pad m) (commandResult .init s) with fin := true } := by
  have hstart := messageStart_init s
  obtain ⟨hdigest, -⟩ := absorbAll_of_start hstart (Md5.pad m)
  have hchars : (List.range 32).map (fun k => 0x00#8 ++ hex (Md5.digest m) (BitVec.ofNat 5 k)) =
      (Md5.hexString (Md5.digest m)).map (fun c => 0x00#8 ++ c) := by
    rw [← map_hex_range, List.map_map]; rfl
  have hzeros : [0x0000] ++ List.replicate m.length (0x0000 : PortWord) ++ [0x0000] = List.replicate (m.length + 2) 0x0000 :=
    (List.replicate_succ' (n := m.length + 1)).symm
  rw [← hzeros, ← hchars, Md5.digest, ← hdigest]
  exact serves_append (serves_append (serves_append (serves_init s) (serves_updates m hstart.fin_false))
    (serves_digest hstart m)) (serves_rdhexs rfl fun _ => List.mem_range.mp)

/-- Settles O48: the host's whole list is the script of `MD5 m`, which the engine serves from any state it waits in. -/
theorem hostReadsHexDigest : Obligations.HostReadsHexDigest := by
  unfold Obligations.HostReadsHexDigest
  intro m s hs hr hh
  obtain ⟨-, hrun⟩ := serves_md5Words m s hs
  have hall := hrun [] s.taken
  rw [List.append_nil, ← hh, atHost_self hr, length_md5Words] at hall
  exact ⟨_, hall, rfl, (List.append_assoc ..).symm⟩

end Sys2Proof.Machine
end

section
/-! SUPPORT. A read command whose operand no command word has (30_encoding.md R66, assumption log 12). -/
namespace Sys2Proof.Machine

/-- An operand with a bit above the five of RDHEX's index has no index (R66). -/
theorem hexIndex_of_not_wf {b : Byte} (h : (Instr.rdhex b).wf = false) : hexIndex b = none :=
  if_neg (beq_eq_false_iff_ne.mp h)

/-- An operand with a bit above the four of RDDIG's index has no index (R66). -/
theorem digIndex_of_not_wf {b : Byte} (h : (Instr.rddig b).wf = false) : digIndex b = none :=
  if_neg (beq_eq_false_iff_ne.mp h)

/-- A read command without an index raises IllegalCommand, whatever FIN is. -/
theorem readView_none {w : Nat} (view : BitVec w → Byte) (s : State) :
    readView none view s = raise .illegalCommand s := rfl

/-- Settles O28: an ill-formed operand has no index, and a read without one raises IllegalCommand. -/
theorem illFormedOperandIsIllegal : Obligations.IllFormedOperandIsIllegal := by
  unfold Obligations.IllFormedOperandIsIllegal
  refine fun b s => ⟨fun h => ?_, fun h => ?_⟩
  · rw [exec_of_isCommand rfl, commandResult, hexIndex_of_not_wf h, readView_none, raise_illegalCommand]
  · rw [exec_of_isCommand rfl, commandResult, digIndex_of_not_wf h, readView_none, raise_illegalCommand]

end Sys2Proof.Machine
end
